-- ==== Sys2Proof/Word.lean ====
section
/-! DEFINITION. Word.lean: the bit widths the block's registers and wires have (rule R10 of spec/00_scope.md). No value is signed. -/

namespace Sys2Proof

/-- One byte of the wire, of a message buffer, or a buffer id. -/
abbrev Byte := BitVec 8

/-- A `u16`: the CRC register, the FCS, LENGTH, RXIDX. -/
abbrev U16 := BitVec 16

/-- A 32-bit register value or command word. -/
abbrev Word := BitVec 32

end Sys2Proof
end

