-- ==== Sys2Proof/Machine/Constants.lean ====
section
/-! DEFINITION. Machine/Constants.lean: the parameters the source fixes (rule R6 of spec/00_scope.md), those derived from them
(rule R7), the reserved wire bytes (rule R70 of spec/30_encoding.md) and the OP values of a command word (rule R78). -/

namespace Sys2Proof.Machine

/-- HDR_SIZE: SAP id and message id. -/
def hdrSize : Nat := 2

/-- FCS_SIZE: the frame-check sequence. -/
def fcsSize : Nat := 2

/-- PAYLOAD_CAP: 300, as spec/90_conflicts.md C1 settles it. -/
def payloadCap : Nat := 300

/-- CRC_POLY, bit-reversed for LSB-first processing. -/
def crcPoly : U16 := 0x8408

/-- CRC_INIT. -/
def crcInit : U16 := 0xFFFF

/-- CRC_GOOD, compared with the complement of the register (rule R131, C2). -/
def crcGood : U16 := 0x0F47

/-- The two LENGTH bytes at the head of a message buffer (rule R51). -/
def lengthSize : Nat := 2

/-- BUF_SIZE = 306: LENGTH, SAP, MSG, payload array, FCS field. -/
def bufSize : Nat := lengthSize + hdrSize + payloadCap + fcsSize

/-- RX_CAP = 304: a buffer without its LENGTH (C3). -/
def rxCap : Nat := bufSize - lengthSize

/-- MIN_FRAME = 4: the shortest frame that is not discarded. -/
def minFrame : Nat := hdrSize + fcsSize

/-- END, the frame delimiter. -/
def wireEND : Byte := 0xC0

/-- ESC, the first byte of an escape. -/
def wireESC : Byte := 0xDB

/-- ESC_END, the second byte of an escaped END. -/
def wireESC_END : Byte := 0xDC

/-- ESC_ESC, the second byte of an escaped ESC. -/
def wireESC_ESC : Byte := 0xDD

/-- OP of INIT. -/
def opINIT : BitVec 4 := 1

/-- OP of ARM. -/
def opARM : BitVec 4 := 2

/-- OP of SEND. -/
def opSEND : BitVec 4 := 3

/-- OP of RELEASE. -/
def opRELEASE : BitVec 4 := 4

end Sys2Proof.Machine
end

