-- ==== Sys2Proof/Machine/CommandWord.lean ====
section
/-! DEFINITION. Machine/CommandWord.lean: the fields of a 32-bit command word (rules R77 to R80 of spec/30_encoding.md). -/

namespace Sys2Proof.Machine

/-- OP, bits [3:0]. -/
def cmdOp (w : Word) : BitVec 4 := w.extractLsb' 0 4

/-- P, bit [4]. -/
def cmdP (w : Word) : Bool := w.getLsbD 4

/-- BUF, bits [15:8]. -/
def cmdBuf (w : Word) : Byte := w.extractLsb' 8 8

/-- Rule R79: OP is none of 1..4, or bits [7:5] or [31:16] are not 0. -/
def reservedWord (w : Word) : Bool :=
  !(cmdOp w == opINIT || cmdOp w == opARM || cmdOp w == opSEND || cmdOp w == opRELEASE)
    || w.extractLsb' 5 3 != 0 || w.extractLsb' 16 16 != 0

/-- The word of an operation and its buffer operand (rules R77, R83): OP, P at bit 4, BUF at bit 8, the reserved bits 0. -/
def commandWord (op : BitVec 4) (p : Bool) (buf : Byte) : Word :=
  op.setWidth 32 ||| (BitVec.ofBool p).setWidth 32 <<< 4 ||| buf.setWidth 32 <<< 8

/-- Rule R77: `buf = (P = 1) ? some zext(BUF) : none`. -/
def bufOperand (p : Bool) (buf : Byte) : Option Byte := if p then some buf else none

end Sys2Proof.Machine
end

