-- ==== Sys2Proof/Machine/Crc.lean ====
section
/-! DEFINITION. Machine/Crc.lean: the CRC unit's two pure functions (spec/41_crc16.md). They hold no state (R135). -/

namespace Sys2Proof.Machine

/-- One bit: shift right, and XOR with the polynomial when a 1 falls out (R130). -/
def crcBit (r : U16) : U16 := if r.getLsbD 0 then (r >>> 1) ^^^ crcPoly else r >>> 1

/-- One byte: XOR into the low eight bits, then eight bits. The inner loop is the spec's general knowledge (R130): notes/assumptions/20.md. -/
def crcByte (r : U16) (d : Byte) : U16 :=
  crcBit (crcBit (crcBit (crcBit (crcBit (crcBit (crcBit (crcBit (r ^^^ d.setWidth 16))))))))

/-- The register after a whole byte list. -/
def crcList (r : U16) : List Byte → U16
  | [] => r
  | d :: ds => crcList (crcByte r d) ds

/-- CRC16(data, n, init): the raw register, with no final XOR (R130). -/
def crc16 (data : List Byte) (n : Nat) (seed : U16) : U16 := crcList seed (data.take n)

/-- CRC_CHECK(data, n, init): the complement of the register against 0x0F47 (R131, C2). -/
def crcCheck (data : List Byte) (n : Nat) (seed : U16) : Bool := ~~~(crc16 data n seed) == crcGood

/-- The FCS of a message: the complement of CRC16 with init 0xFFFF (R53, R75, R134). -/
def fcsOf (data : List Byte) : U16 := ~~~(crc16 data data.length crcInit)

end Sys2Proof.Machine
end

