-- ==== Sys2Proof/Config.lean ====
section
/-! DEFINITION. Config.lean: what an implementation fixes (the open parameters of rule R8 of spec/00_scope.md) and the free values
(rules R220 and R228 of spec/70_reset_and_hazards.md, spec/93_implementation_defined.md Part 1, treatment "any value"). -/

namespace Sys2Proof

/-- The open parameters of rule R8. They stand in `State.params`, so that a claim about every state is a claim about every
implementation; no step changes them. DESIGN CHOICE, notes/assumptions/4.md. -/
structure Params where
  /-- NBUF, the number of message buffers (D11) -/
  nbuf : Nat
  /-- TX_CAP, the size of the shared transmit buffer in bytes (D12) -/
  txCap : Nat
  /-- WAKEUP_COUNT, how many wake-up characters come before a frame (D13) -/
  wakeupCount : Nat
  /-- WAKEUP_BYTE, the value of a wake-up character (D14) -/
  wakeupByte : Byte
  deriving DecidableEq, Repr

/-- The ranges rule R8 gives the parameters: NBUF is 1..256, TX_CAP at least 2. -/
abbrev Params.ok (p : Params) : Prop := 1 ≤ p.nbuf ∧ p.nbuf ≤ 256 ∧ 2 ≤ p.txCap

namespace Config

/-- How many wake-up characters come before a frame in `State.reset`: rule R8 leaves it open, and unknown at every use. Free value,
notes/assumptions/4.md. -/
opaque wakeupCount : Nat

/-- The value of a wake-up character in `State.reset`: rule R8 leaves it open. Free value, notes/assumptions/4.md. -/
opaque wakeupByte : Byte

/-- What the BMEM byte at an address holds after the given power-on and before anything writes it (rule R220: "every byte may
hold any value, and a model takes each as a free draw"). Free value, notes/assumptions/6.md. -/
opaque bmemDraw : Nat → Nat → Byte

/-- What a TXOUT byte holds where the spec leaves it unspecified (rules R27, R101, R228). Free value, notes/assumptions/7.md. -/
opaque txoutDraw : Nat → Nat → Byte

/-- The parameters of the reset state. NBUF and TX_CAP have the values spec/95_test_vectors.md uses "unless a vector says otherwise":
NBUF = 2 reproduces the source's two message structs (D11), TX_CAP = MAX_ENC = 610 is the size at which no encode fails (D12). The two
wake-up values are free (R8). DESIGN CHOICE, notes/assumptions/4.md. -/
def resetParams : Params := ⟨2, 610, wakeupCount, wakeupByte⟩

end Config

end Sys2Proof
end

