-- ==== Sys2Proof/Syntax.lean ====
section
/-! DEFINITION. Syntax.lean: the operations of the block, one constructor per row of spec/opcode_table.json (rule R2: the block has
no instruction set, its "instructions" are its operations). A constructor's docstring names its row and its rule. -/

namespace Sys2Proof

/-- RXST, the decoder and delivery state (rule R21 of spec/10_state.md). Encodings 5, 6 and 7 are never held. -/
inductive RxState where
  | idle | awaitStart | inFrame | escape | deliver
  deriving DecidableEq, Repr

/-- A register access that is none of RD STATUS, RD RXCNT, RD CRCERR and WR CMD (rule R164 of spec/42_hci_transport.md). -/
inductive RegAccess where
  /-- a read of register number `k` -/
  | read (k : Byte)
  /-- a write of `v` to register number `k` -/
  | write (k : Byte) (v : Word)
  deriving DecidableEq, Repr

/-- One operation of the block. -/
inductive Instr where
  -- CMD32: a command word written to CMD (rules R77, R78). `p` is P, `buf` is BUF, kept when P = 0 too: the word is in the event.
  /-- INIT, R151 -/
  | init (p : Bool) (buf : Byte)
  /-- ARM, R152 -/
  | arm (p : Bool) (buf : Byte)
  /-- SEND, R153 -/
  | send (p : Bool) (buf : Byte)
  /-- RELEASE, R160 -/
  | release (p : Bool) (buf : Byte)
  /-- CMD_RESERVED, R79: a word no command has -/
  | cmdReserved (w : Word)
  -- REG8: a register access by the CLIENT (rule R82)
  /-- RD_STATUS, R161 -/
  | rdStatus
  /-- RD_RXCNT, R162 -/
  | rdRxcnt
  /-- RD_CRCERR, R163 -/
  | rdCrcerr
  /-- WR_CMD, R150: register 3 written with a command word -/
  | wrCmd (w : Word)
  /-- RD_WR_other, R164 -/
  | rdWrOther (a : RegAccess)
  -- MEM8: a BMEM access by the CLIENT; the address has no encoding bits and is any natural
  /-- LD, R165 -/
  | ld (a : Nat)
  /-- ST, R166 -/
  | st (a : Nat) (v : Byte)
  -- WIRE8, by value (rule R70): LINE_RX offers this reserved byte
  /-- END -/
  | wireEnd
  /-- ESC -/
  | wireEsc
  /-- ESC_END -/
  | wireEscEnd
  /-- ESC_ESC -/
  | wireEscEsc
  -- WIRE_SYMBOL (rule R71): LINE_RX offers the bytes of this symbol
  /-- DELIM -/
  | delim
  /-- LIT(d) -/
  | lit (d : Byte)
  /-- XEND -/
  | xend
  /-- XESC -/
  | xesc
  -- WIRE8, by decoder state (rules R105 to R114): LINE_RX offers this byte while the decoder is in the row's state
  /-- RX__IDLE, R105 -/
  | rxIdle (d : Byte)
  /-- RX_END__AWAIT_START, R106 -/
  | rxEndAwaitStart
  /-- RX_other__AWAIT_START, R107 -/
  | rxOtherAwaitStart (d : Byte)
  /-- RX_END__IN_FRAME__RXIDX_0, R108: RXIDX > 0 -/
  | rxEndInFrameStored
  /-- RX_END__IN_FRAME__RXIDX_0_2, R109: RXIDX = 0 -/
  | rxEndInFrameEmpty
  /-- RX_ESC__IN_FRAME, R110 -/
  | rxEscInFrame
  /-- RX_data__IN_FRAME, R111 -/
  | rxDataInFrame (d : Byte)
  /-- RX_ESC_END__ESCAPE, R112 -/
  | rxEscEndEscape
  /-- RX_ESC_ESC__ESCAPE, R113 -/
  | rxEscEscEscape
  /-- RX_other__ESCAPE, R114 -/
  | rxOtherEscape (d : Byte)
  -- ENV (rule R85)
  /-- TXACK, R154 and R155 -/
  | txack
  /-- RESET, R220 -/
  | reset
  -- INTERNAL: functions and sub-operations the steps above call
  /-- CRC16(data, n, init), R130 -/
  | crc16 (data : List Byte) (n : Nat) (seed : U16)
  /-- CRC_CHECK(data, n, init), R131 -/
  | crcCheck (data : List Byte) (n : Nat) (seed : U16)
  /-- SLIP_ENCODE(src, cap), R101 -/
  | slipEncode (src : List Byte) (cap : Nat)
  /-- STORE(v), R103 -/
  | store (v : Byte)
  /-- FRAME_COMPLETE(L), R156 -/
  | frameComplete (len : Nat)
  /-- FRAME_COMPLETE_short, R157 -/
  | frameCompleteShort (len : Nat)
  /-- FRAME_COMPLETE_crc-fail, R158 -/
  | frameCompleteCrcFail (len : Nat)
  /-- FRAME_COMPLETE_deliver, R159 -/
  | frameCompleteDeliver (len : Nat)
  -- PSEUDO (rules R84, R85): sequences of separate steps
  /-- PAUSE = `ARM none` -/
  | pause
  /-- SETLEN bN, n -/
  | setlen (buf : Byte) (n : U16)
  /-- FILL bN, off, data -/
  | fill (buf : Byte) (off : Nat) (data : List Byte)
  /-- MSG bN, sap, mid, payload -/
  | msg (buf : Byte) (sap mid : Byte) (payload : List Byte)
  /-- RXS data -/
  | rxs (data : List Byte)
  /-- TXACK*: TXACK until TXBUSY = 0 -/
  | txackAll
  deriving DecidableEq, Repr

end Sys2Proof
end

