-- ==== Sys2Proof/WellFormed.lean ====
section
/-! DEFINITION. WellFormed.lean: which terms of `Instr` are operations of the spec: the operand is one the row's encoding or the
row's rule admits. Every field a bit pattern can fill is already bounded by its type. -/

namespace Sys2Proof

open Machine

/-- Rule R164: reads of CMD and of 4..255, writes of every register but CMD. -/
def RegAccess.wf : RegAccess → Bool
  | .read k => 3 ≤ k.toNat
  | .write k _ => k != 3

/-- An operation with operands the spec gives it. -/
def Instr.wf : Instr → Bool
  | .init _ _ => true
  | .arm _ _ => true
  | .send _ _ => true
  | .release _ _ => true
  | .cmdReserved w => reservedWord w
  | .rdStatus => true
  | .rdRxcnt => true
  | .rdCrcerr => true
  | .wrCmd _ => true
  | .rdWrOther a => a.wf
  | .ld _ => true
  | .st _ _ => true
  | .wireEnd => true
  | .wireEsc => true
  | .wireEscEnd => true
  | .wireEscEsc => true
  | .delim => true
  | .lit d => d != wireEND && d != wireESC                       -- R71
  | .xend => true
  | .xesc => true
  | .rxIdle _ => true
  | .rxEndAwaitStart => true
  | .rxOtherAwaitStart d => d != wireEND                         -- R107
  | .rxEndInFrameStored => true
  | .rxEndInFrameEmpty => true
  | .rxEscInFrame => true
  | .rxDataInFrame d => d != wireEND && d != wireESC             -- R111
  | .rxEscEndEscape => true
  | .rxEscEscEscape => true
  | .rxOtherEscape d => d != wireESC_END && d != wireESC_ESC     -- R114
  | .txack => true
  | .reset => true
  | .crc16 data n _ => n ≤ data.length                           -- R130
  | .crcCheck data n _ => n ≤ data.length                        -- R131
  | .slipEncode _ _ => true
  | .store _ => true
  | .frameComplete len => 1 ≤ len && len ≤ rxCap                 -- R156
  | .frameCompleteShort len => 1 ≤ len && len < minFrame         -- R157
  | .frameCompleteCrcFail len => minFrame ≤ len && len ≤ rxCap   -- R158
  | .frameCompleteDeliver len => minFrame ≤ len && len ≤ rxCap   -- R159
  | .pause => true
  | .setlen _ _ => true
  | .fill _ _ _ => true
  | .msg _ _ _ payload => payload.length < 65536                 -- R84: LENGTH is a u16 (R52)
  | .rxs _ => true
  | .txackAll => true

end Sys2Proof
end

