-- ==== Sys2Proof/Decode.lean ====
section
/-! DEFINITION. Decode.lean: from the forms in which an operation reaches the block (spec/30_encoding.md: command words, register
numbers, wire bytes, wire symbols) to `Instr`, and back. Every function is total; what stands for no operation is rejected by name. -/

namespace Sys2Proof

open Machine

/-- The operations that only the block's own rules call (format INTERNAL): they have no bits. -/
inductive InternalCall where
  | crc16 (data : List Byte) (n : Nat) (seed : U16)
  | crcCheck (data : List Byte) (n : Nat) (seed : U16)
  | slipEncode (src : List Byte) (cap : Nat)
  | store (v : Byte)
  | frameComplete (len : Nat)
  | frameCompleteShort (len : Nat)
  | frameCompleteCrcFail (len : Nat)
  | frameCompleteDeliver (len : Nat)
  deriving DecidableEq, Repr

/-- The pseudo-instructions of rules R84 and R85 (format PSEUDO): program text, no bits. -/
inductive Pseudo where
  | pause
  | setlen (buf : Byte) (n : U16)
  | fill (buf : Byte) (off : Nat) (data : List Byte)
  | msg (buf : Byte) (sap mid : Byte) (payload : List Byte)
  | rxs (data : List Byte)
  | txackAll
  deriving DecidableEq, Repr

/-- An operation in the form its format gives it (the column "format" of spec/opcode_table.json). -/
inductive Coded where
  /-- CMD32: a command word on its way to CMD -/
  | cmd32 (w : Word)
  /-- REG8: a read (`none`) or a write (`some v`) of register `num` -/
  | reg8 (num : Byte) (written : Option Word)
  /-- MEM8: a load (`none`) or a store (`some v`) at BMEM address `a` -/
  | mem8 (a : Nat) (stored : Option Byte)
  /-- WIRE8 by value: a reserved wire byte -/
  | wire8 (d : Byte)
  /-- WIRE_SYMBOL: the bytes of one symbol, first on the wire first -/
  | wireSymbol (bytes : List Byte)
  /-- WIRE8 by state: byte `d` offered while RXST is `st` and RXIDX > 0 is `stored` -/
  | rx8 (st : RxState) (stored : Bool) (d : Byte)
  /-- ENV: LINE_TX takes a byte -/
  | txAccept
  /-- ENV: power-on -/
  | powerOn
  /-- INTERNAL -/
  | internal (f : InternalCall)
  /-- PSEUDO -/
  | pseudo (p : Pseudo)
  deriving DecidableEq, Repr

/-- Why a form stands for no operation. -/
inductive DecodeError where
  /-- the byte is none of END, ESC, ESC_END, ESC_ESC (rule R70) -/
  | notReservedByte (d : Byte)
  /-- no byte where a symbol must begin (rule R71) -/
  | emptySymbol
  /-- ESC with nothing after it (rule R72) -/
  | truncatedEscape
  /-- ESC followed by a byte that is neither ESC_END nor ESC_ESC (rule R86) -/
  | invalidEscape (d : Byte)
  /-- bytes left over after one symbol -/
  | trailingBytes (n : Nat)
  /-- no byte is taken in DELIVER (rule R104) -/
  | lineHeld
  deriving DecidableEq, Repr

/-- The command decoder (rules R77 to R79), total on words. -/
def decodeCommand (w : Word) : Instr :=
  if reservedWord w then .cmdReserved w
  else if cmdOp w == opINIT then .init (cmdP w) (cmdBuf w)
  else if cmdOp w == opARM then .arm (cmdP w) (cmdBuf w)
  else if cmdOp w == opSEND then .send (cmdP w) (cmdBuf w)
  else .release (cmdP w) (cmdBuf w)

/-- A register read (rule R82). -/
def decodeRegRead (k : Byte) : Instr :=
  if k == 0 then .rdStatus else if k == 1 then .rdRxcnt else if k == 2 then .rdCrcerr else .rdWrOther (.read k)

/-- A register write (rule R82). -/
def decodeRegWrite (k : Byte) (v : Word) : Instr :=
  if k == 3 then .wrCmd v else .rdWrOther (.write k v)

/-- A reserved wire byte (rule R70). -/
def decodeWireByte (d : Byte) : Except DecodeError Instr :=
  if d == wireEND then .ok .wireEnd
  else if d == wireESC then .ok .wireEsc
  else if d == wireESC_END then .ok .wireEscEnd
  else if d == wireESC_ESC then .ok .wireEscEsc
  else .error (.notReservedByte d)

/-- The next symbol of a wire byte stream and the bytes after it (rules R71, R72, R86). -/
def decodeSymbol : List Byte → Except DecodeError (Instr × List Byte)
  | [] => .error .emptySymbol
  | b :: rest =>
    if b == wireEND then .ok (.delim, rest)
    else if b == wireESC then
      match rest with
      | [] => .error .truncatedEscape
      | c :: more =>
        if c == wireESC_END then .ok (.xend, more)
        else if c == wireESC_ESC then .ok (.xesc, more)
        else .error (.invalidEscape c)
    else .ok (.lit b, rest)

/-- The decoder row of a byte offered in a state (rules R104, R115): `none` in DELIVER, where no byte is taken. -/
def decodeRx (st : RxState) (stored : Bool) (d : Byte) : Option Instr :=
  match st with
  | .idle => some (.rxIdle d)
  | .awaitStart => some (if d == wireEND then .rxEndAwaitStart else .rxOtherAwaitStart d)
  | .inFrame =>
    some (if d == wireEND then (if stored then .rxEndInFrameStored else .rxEndInFrameEmpty)
      else if d == wireESC then .rxEscInFrame
      else .rxDataInFrame d)
  | .escape =>
    some (if d == wireESC_END then .rxEscEndEscape
      else if d == wireESC_ESC then .rxEscEscEscape
      else .rxOtherEscape d)
  | .deliver => none

/-- An internal call, by its name. -/
def decodeInternal : InternalCall → Instr
  | .crc16 data n seed => .crc16 data n seed
  | .crcCheck data n seed => .crcCheck data n seed
  | .slipEncode src cap => .slipEncode src cap
  | .store v => .store v
  | .frameComplete len => .frameComplete len
  | .frameCompleteShort len => .frameCompleteShort len
  | .frameCompleteCrcFail len => .frameCompleteCrcFail len
  | .frameCompleteDeliver len => .frameCompleteDeliver len

/-- A pseudo-instruction, by its name. -/
def decodePseudo : Pseudo → Instr
  | .pause => .pause
  | .setlen buf n => .setlen buf n
  | .fill buf off data => .fill buf off data
  | .msg buf sap mid payload => .msg buf sap mid payload
  | .rxs data => .rxs data
  | .txackAll => .txackAll

/-- The decoder: total, rejecting by name. -/
def decode : Coded → Except DecodeError Instr
  | .cmd32 w => .ok (decodeCommand w)
  | .reg8 k none => .ok (decodeRegRead k)
  | .reg8 k (some v) => .ok (decodeRegWrite k v)
  | .mem8 a none => .ok (.ld a)
  | .mem8 a (some v) => .ok (.st a v)
  | .wire8 d => decodeWireByte d
  | .wireSymbol bytes =>
    match decodeSymbol bytes with
    | .ok (i, []) => .ok i
    | .ok (_, b :: rest) => .error (.trailingBytes (b :: rest).length)
    | .error e => .error e
  | .rx8 st stored d =>
    match decodeRx st stored d with
    | some i => .ok i
    | none => .error .lineHeld
  | .txAccept => .ok .txack
  | .powerOn => .ok .reset
  | .internal f => .ok (decodeInternal f)
  | .pseudo p => .ok (decodePseudo p)

/-- The encoder, from the encoding tables of spec/30_encoding.md and the rows of spec/opcode_table.json. -/
def encode : Instr → Coded
  | .init p buf => .cmd32 (commandWord opINIT p buf)
  | .arm p buf => .cmd32 (commandWord opARM p buf)
  | .send p buf => .cmd32 (commandWord opSEND p buf)
  | .release p buf => .cmd32 (commandWord opRELEASE p buf)
  | .cmdReserved w => .cmd32 w
  | .rdStatus => .reg8 0 none
  | .rdRxcnt => .reg8 1 none
  | .rdCrcerr => .reg8 2 none
  | .wrCmd w => .reg8 3 (some w)
  | .rdWrOther (.read k) => .reg8 k none
  | .rdWrOther (.write k v) => .reg8 k (some v)
  | .ld a => .mem8 a none
  | .st a v => .mem8 a (some v)
  | .wireEnd => .wire8 0xC0
  | .wireEsc => .wire8 0xDB
  | .wireEscEnd => .wire8 0xDC
  | .wireEscEsc => .wire8 0xDD
  | .delim => .wireSymbol [0xC0]
  | .lit d => .wireSymbol [d]
  | .xend => .wireSymbol [0xDB, 0xDC]
  | .xesc => .wireSymbol [0xDB, 0xDD]
  | .rxIdle d => .rx8 .idle false d
  | .rxEndAwaitStart => .rx8 .awaitStart false 0xC0
  | .rxOtherAwaitStart d => .rx8 .awaitStart false d
  | .rxEndInFrameStored => .rx8 .inFrame true 0xC0
  | .rxEndInFrameEmpty => .rx8 .inFrame false 0xC0
  | .rxEscInFrame => .rx8 .inFrame false 0xDB
  | .rxDataInFrame d => .rx8 .inFrame false d
  | .rxEscEndEscape => .rx8 .escape false 0xDC
  | .rxEscEscEscape => .rx8 .escape false 0xDD
  | .rxOtherEscape d => .rx8 .escape false d
  | .txack => .txAccept
  | .reset => .powerOn
  | .crc16 data n seed => .internal (.crc16 data n seed)
  | .crcCheck data n seed => .internal (.crcCheck data n seed)
  | .slipEncode src cap => .internal (.slipEncode src cap)
  | .store v => .internal (.store v)
  | .frameComplete len => .internal (.frameComplete len)
  | .frameCompleteShort len => .internal (.frameCompleteShort len)
  | .frameCompleteCrcFail len => .internal (.frameCompleteCrcFail len)
  | .frameCompleteDeliver len => .internal (.frameCompleteDeliver len)
  | .pause => .pseudo .pause
  | .setlen buf n => .pseudo (.setlen buf n)
  | .fill buf off data => .pseudo (.fill buf off data)
  | .msg buf sap mid payload => .pseudo (.msg buf sap mid payload)
  | .rxs data => .pseudo (.rxs data)
  | .txackAll => .pseudo .txackAll

/-- What the decoder reads from a word numbered as spec/opcode_table.json numbers it. The table has 32-bit rows (command words),
16-bit rows (the two-byte symbols, whose first wire byte is the HIGH byte of the row's number: match 0xDBDC is "two bytes DB DC,
first on the wire first") and 8-bit rows (register numbers and wire bytes, which are different ports). An 8-bit word is read
as a reserved wire byte where it is one, else as a register number: 3 as the write of CMD (value bits all 0), every other as
a read. DEDUCED, notes/assumptions/14.md. -/
def decodeTableWord (nbits w : Nat) : Option Instr :=
  match nbits with
  | 32 => some (decodeCommand (BitVec.ofNat 32 w))
  | 16 =>
    match decode (.wireSymbol [BitVec.ofNat 8 (w / 256), BitVec.ofNat 8 w]) with
    | .ok i => some i
    | .error _ => none
  | 8 =>
    match decodeWireByte (BitVec.ofNat 8 w) with
    | .ok i => some i
    | .error _ =>
      if BitVec.ofNat 8 w == 3 then some (decodeRegWrite 3 0) else some (decodeRegRead (BitVec.ofNat 8 w))
  | _ => none

end Sys2Proof
end

