-- ==== Sys2Proof/Machine/State.lean ====
section
/-! DEFINITION. Machine/State.lean: the state of the block (rule R20 of spec/10_state.md), the buffer memory it shares with the CLIENT
(rule R50 of spec/20_memory.md), the event history (rule R40), and the model's own fields that stand for the environment. Plain data. -/

namespace Sys2Proof.Machine

/-- Result codes (rule R81 of spec/30_encoding.md); codes 6 and 7 are never written. -/
inductive ResultCode where
  | ok | errNull | errLen | errState | errBuf | errOp
  deriving DecidableEq, Repr

/-- Why a received frame was dropped (rule R40). -/
inductive DiscardReason where
  | abort | short | crc
  deriving DecidableEq, Repr

/-- The events of rule R40. -/
inductive Event where
  /-- LINE_RX handed byte `b` to the block -/
  | rxIn (b : Byte)
  /-- the block handed byte `b` to LINE_TX -/
  | txOut (b : Byte)
  /-- a valid message of payload length `len` is in buffer `buf` -/
  | msgReady (buf : Byte) (len : Nat)
  /-- the SEND from buffer `buf` has emitted its last byte -/
  | txDone (buf : Byte)
  /-- a command was accepted with the given result -/
  | cmd (word : Word) (result : ResultCode)
  /-- a frame with `n` stored bytes was dropped -/
  | discard (reason : DiscardReason) (n : Nat)
  deriving DecidableEq, Repr

/-- FAULTS (rules R20, R29, R193): a subset of FAULT_OWNERSHIP and FAULT_RANGE. Sticky records of the environment's mistakes;
they stop nothing. Only the kinds are kept: notes/assumptions/8.md. -/
structure Faults where
  ownership : Bool
  range : Bool
  deriving DecidableEq, Repr

/-- The environment's agents (rule R13 of spec/00_scope.md), and power-on. -/
inductive Agent where
  | client | lineRx | lineTx | power
  deriving DecidableEq, Repr

/-- One coming step of the environment (rules R13, R83 to R85). -/
inductive Turn where
  /-- CLIENT writes command word `w` to CMD -/
  | command (w : Word)
  /-- CLIENT reads register `k` -/
  | regRead (k : Byte)
  /-- CLIENT writes `v` to register `k` -/
  | regWrite (k : Byte) (v : Word)
  /-- CLIENT loads the BMEM byte at `a` -/
  | memRead (a : Nat)
  /-- CLIENT stores `v` at BMEM address `a` -/
  | memWrite (a : Nat) (v : Byte)
  /-- byte `d` reaches LINE_RX, and LINE_RX offers the oldest byte it holds -/
  | rx (d : Byte)
  /-- LINE_RX offers the oldest byte it holds, if it holds one -/
  | rxHeld
  /-- LINE_TX is ready to accept a byte -/
  | txAccept
  /-- power-on -/
  | powerOn
  /-- a pseudo-instruction of the program text (R84, R85) -/
  | pseudo (p : Pseudo)
  deriving DecidableEq, Repr

/-- Whose step a turn is: RXS is LINE_RX's, TXACK* is LINE_TX's, the other pseudo-instructions are the CLIENT's. -/
def Turn.agent : Turn → Agent
  | .command _ => .client
  | .regRead _ => .client
  | .regWrite _ _ => .client
  | .memRead _ => .client
  | .memWrite _ _ => .client
  | .rx _ => .lineRx
  | .rxHeld => .lineRx
  | .txAccept => .lineTx
  | .powerOn => .power
  | .pseudo .pause => .client
  | .pseudo (.setlen _ _) => .client
  | .pseudo (.fill _ _ _) => .client
  | .pseudo (.msg _ _ _ _) => .client
  | .pseudo (.rxs _) => .lineRx
  | .pseudo .txackAll => .lineTx

/-- What the last read or pure function handed to its caller (rules R101, R130, R131, R161 to R165). -/
inductive Returned where
  /-- no value: nothing read yet, or a load that FAULT_RANGE ended (rule R67) -/
  | nothing
  /-- a register read -/
  | register (v : Word)
  /-- a BMEM load -/
  | byte (v : Byte)
  /-- CRC16's raw register -/
  | crc (v : U16)
  /-- CRC_CHECK's answer -/
  | check (good : Bool)
  /-- SLIP_ENCODE's answer: `some n` is Ok(n), `none` is LenErr -/
  | encoded (r : Option Nat)
  deriving DecidableEq, Repr

/-- BMEM as the bytes written since power-on, addresses strictly rising. An address not listed has no written byte; what it reads as
is the free draw of `State.memByte`. -/
abbrev Memory := List Host.Cell

/-- The canonical form: addresses strictly rising, so that memories with the same written bytes are the same list. -/
abbrev Memory.wf (m : Memory) : Prop := m.Pairwise (fun x y => x.1 < y.1)

/-- The state of the block, of BMEM and of the environment. -/
structure State where
  /-- RXST (R21) -/
  rxst : RxState
  /-- RXBUF (R22) -/
  rxbuf : Byte
  /-- RXIDX (R23) -/
  rxidx : U16
  /-- CRCERR (R24) -/
  crcerr : Word
  /-- TXBUSY (R25) -/
  txbusy : Bool
  /-- TXBUF (R25) -/
  txbuf : Byte
  /-- TXWAKE (R26) -/
  txwake : Nat
  /-- TXOUT (R27): its known bytes from index 0; every further byte is a free draw -/
  txout : List Byte
  /-- which free draws the unspecified bytes of TXOUT are (R27, R101; the model's own) -/
  txoutEpoch : Nat
  /-- TXLEN (R27) -/
  txlen : Nat
  /-- TXPOS (R27) -/
  txpos : Nat
  /-- RESULT (R28) -/
  result : ResultCode
  /-- FAULTS (R29) -/
  faults : Faults
  /-- BMEM (R50): the bytes written since power-on -/
  bmem : Memory
  /-- which free draws the other bytes of BMEM are (R220; the model's own) -/
  bmemEpoch : Nat
  /-- the event history (R40), oldest first -/
  events : List Event
  /-- NBUF, TX_CAP, WAKEUP_COUNT, WAKEUP_BYTE (R8; the model's own, no step changes it) -/
  params : Params
  /-- the bytes LINE_RX holds, oldest first (R41, R224; the model's own) -/
  line : List Byte
  /-- the environment's coming steps, next first (R13, R61; the model's own) -/
  turns : List Turn
  /-- what the last read or pure function returned (the model's own) -/
  returned : Returned
  deriving DecidableEq, Repr

/-- Why a step could stop the machine. No constructor: rule R190 of spec/60_exceptions.md, "No condition makes the block trap, stop,
vector, save state or change mode". FAULT_OWNERSHIP and FAULT_RANGE are records in `State.faults`, and the run goes on (R193). -/
inductive Fault where
  deriving DecidableEq, Repr

/-- Why an instruction could be refused. -/
inductive Refusal where
  /-- raised by `exec` for a row of the opcode table without a meaning (no row is): safe, it proves nothing about a run -/
  | notModelled (mnemonic : String)
  deriving DecidableEq, Repr

/-- What the fetch of a step finds. -/
inductive Fetched where
  /-- no agent has an enabled step in this turn: only the turn is gone -/
  | wait (s : State)
  /-- this operation, in this state -/
  | run (i : Instr) (s : State)
  deriving DecidableEq, Repr

/-- Power-on reset (rule R220 of spec/70_reset_and_hazards.md) of a block with the given parameters, no turn pending, no byte on the
line. The numbers of the free draws and the model's own fields are DESIGN CHOICES: notes/assumptions/4.md, 6.md, 7.md, 15.md. -/
def State.resetWith (p : Params) : State where
  rxst := .idle
  rxbuf := 0
  rxidx := 0
  crcerr := 0
  txbusy := false
  txbuf := 0
  txwake := 0
  txout := []
  txoutEpoch := 0
  txlen := 0
  txpos := 0
  result := .ok
  faults := ⟨false, false⟩
  bmem := []
  bmemEpoch := 0
  events := []
  params := p
  line := []
  turns := []
  returned := .nothing

/-- The machine right after reset. -/
def State.reset : State := State.resetWith Config.resetParams

end Sys2Proof.Machine
end

