-- ==== Sys2Proof/Machine/Operands.lean ====
section
/-! DEFINITION. Machine/Operands.lean: where an operand lies in BMEM (rules R50, R51, R54 of spec/20_memory.md), byte lists of
multi-byte quantities (R52, R53, R57), and the numbers registers show (R21, R81). -/

namespace Sys2Proof.Machine

/-- base(b) = b × BUF_SIZE (R50). -/
def base (b : Byte) : Nat := b.toNat * bufSize

/-- span(b), the address of the SAP id (R54). -/
def span (b : Byte) : Nat := base b + lengthSize

/-- The number of BMEM bytes, NBUF × BUF_SIZE (R50). -/
def bmemSize (p : Params) : Nat := p.nbuf * bufSize

/-- LE16(v) = [v[7:0], v[15:8]] (R11). -/
def le16 (v : U16) : List Byte := [v.extractLsb' 0 8, v.extractLsb' 8 8]

/-- The number RXST has in STATUS[2:0] (R21). -/
def RxState.code : RxState → BitVec 3
  | .idle => 0
  | .awaitStart => 1
  | .inFrame => 2
  | .escape => 3
  | .deliver => 4

/-- The number a result code has in STATUS[6:4] (R81). -/
def ResultCode.code : ResultCode → BitVec 3
  | .ok => 0
  | .errNull => 1
  | .errLen => 2
  | .errState => 3
  | .errBuf => 4
  | .errOp => 5

end Sys2Proof.Machine
end

