-- ==== Sys2Proof/Machine/Flags.lean ====
section
/-! DEFINITION. Machine/Flags.lean: everything the block computes from its registers and never stores: the derived flags (rule R31 of
spec/10_state.md), the TX phase (R30), the owner of a buffer (R38), and the words STATUS, RXCNT and CRCERR show (R32 to R36). -/

namespace Sys2Proof.Machine

/-- RXVALID = (RXST ≠ IDLE). -/
def State.rxValid (s : State) : Bool := s.rxst != .idle

/-- MSG_READY = (RXST = DELIVER), the message-ready output (R196). -/
def State.msgReady (s : State) : Bool := s.rxst == .deliver

/-- rx_ready = (RXST ≠ DELIVER): LINE_RX may offer a byte. -/
def State.rxReady (s : State) : Bool := s.rxst != .deliver

/-- tx_valid = TXBUSY: LINE_TX may accept a byte. -/
def State.txValid (s : State) : Bool := s.txbusy

/-- The three TX phases of rule R30. -/
inductive TxPhase where
  | idle | waking | sending
  deriving DecidableEq, Repr

/-- The TX phase (R30). -/
def State.txPhase (s : State) : TxPhase :=
  if !s.txbusy then .idle else if 0 < s.txwake then .waking else .sending

/-- Who may use a message buffer (R38). -/
inductive Owner where
  | rx | tx | client
  deriving DecidableEq, Repr

/-- The decoder holds an armed buffer in these states (R38). -/
def RxState.armed : RxState → Bool
  | .idle => false
  | .awaitStart => true
  | .inFrame => true
  | .escape => true
  | .deliver => false

/-- owner(b) (R38), for any number b. -/
def State.owner (s : State) (b : Nat) : Owner :=
  if RxState.armed s.rxst && s.rxbuf.toNat == b then .rx
  else if s.txbusy && s.txbuf.toNat == b then .tx
  else .client

/-- The word STATUS reads as (R32). -/
def State.statusWord (s : State) : Word :=
  (RxState.code s.rxst).setWidth 32 ||| (BitVec.ofBool s.txbusy).setWidth 32 <<< 3 ||| (ResultCode.code s.result).setWidth 32 <<< 4
    ||| (BitVec.ofBool s.rxValid).setWidth 32 <<< 7 ||| s.rxbuf.setWidth 32 <<< 8 ||| s.txbuf.setWidth 32 <<< 16

/-- The word a register reads as (R32 to R36, R82): CMD and the reserved numbers read 0. -/
def State.regWord (s : State) (k : Byte) : Word :=
  if k == 0 then s.statusWord
  else if k == 1 then s.rxidx.setWidth 32
  else if k == 2 then s.crcerr
  else 0

end Sys2Proof.Machine
end

