-- ==== Sys2Proof/Machine/Slip.lean ====
section
/-! DEFINITION. Machine/Slip.lean: the encoder as a pure function (rules R100, R101 of spec/40_slip_codec.md). -/

namespace Sys2Proof.Machine

/-- esc(d) (R100). -/
def escByte (d : Byte) : List Byte :=
  if d == wireEND then [wireESC, wireESC_END]
  else if d == wireESC then [wireESC, wireESC_ESC]
  else [d]

/-- The escaped bytes of a list. -/
def escBytes : List Byte → List Byte
  | [] => []
  | d :: ds => escByte d ++ escBytes ds

/-- The complete encoder output (R101): END, the escaped bytes, END. -/
def frameBytes (src : List Byte) : List Byte := wireEND :: escBytes src ++ [wireEND]

/-- SLIP_ENCODE's answer: `some n` for Ok(n), `none` for LenErr (R101). -/
def slipResult (src : List Byte) (cap : Nat) : Option Nat :=
  if cap < (frameBytes src).length then none else some (frameBytes src).length

end Sys2Proof.Machine
end

