-- ==== Sys2Proof/Machine/Ops.lean ====
section
/-! DEFINITION. Machine/Ops.lean: the operations every meaning is written from: BMEM and TXOUT accesses, events, result codes, model
faults, arming the decoder, the decoder's steps, delivery (the block's nearest thing to taking an exception, rule R198), SEND,
emission. The block has no trap (R190), so no operation stops. -/

namespace Sys2Proof.Machine

/-- The byte written at `a` since power-on, if one was. -/
def Memory.read? (a : Nat) : Memory → Option Byte
  | [] => none
  | (k, v) :: rest => if a == k then some v else Memory.read? a rest

/-- The memory after byte `v` is written at `a`; keeps the canonical form. -/
def Memory.write (a : Nat) (v : Byte) : Memory → Memory
  | [] => [(a, v)]
  | (k, w) :: rest =>
    if a < k then (a, v) :: (k, w) :: rest
    else if a == k then (a, v) :: rest
    else (k, w) :: Memory.write a v rest

/-- MemRead(a, 1) (R11): the byte BMEM holds; one that nothing has written since power-on is a free draw (R220). -/
def State.memByte (s : State) (a : Nat) : Byte := (Memory.read? a s.bmem).getD (Config.bmemDraw s.bmemEpoch a)

/-- MemWrite(a, 1, v) (R11). -/
def State.memWrite (s : State) (a : Nat) (v : Byte) : State := { s with bmem := Memory.write a v s.bmem }

/-- MemWrite of consecutive bytes from `a`. -/
def State.memWrites (s : State) (a : Nat) : List Byte → State
  | [] => s
  | v :: vs => State.memWrites (s.memWrite a v) (a + 1) vs

/-- The `n` bytes from address `a`. -/
def State.memBytes (s : State) (a : Nat) : Nat → List Byte
  | 0 => []
  | n + 1 => s.memByte a :: State.memBytes s (a + 1) n

/-- `emit E` (R11, R40). -/
def State.emit (s : State) (e : Event) : State := { s with events := s.events ++ [e] }

/-- `RESULT <- c`; `raise ERR_X()` is this with an error code (R11, R28). -/
def State.setResult (s : State) (c : ResultCode) : State := { s with result := c }

/-- `raise FAULT_OWNERSHIP(b)`: FAULTS gains FAULT_OWNERSHIP, the run goes on (R29, R66, R193). -/
def State.faultOwnership (s : State) : State := { s with faults := { s.faults with ownership := true } }

/-- `raise FAULT_RANGE(a)`: FAULTS gains FAULT_RANGE, the run goes on (R29, R67, R193). -/
def State.faultRange (s : State) : State := { s with faults := { s.faults with range := true } }

/-- The value an operation hands to its caller. -/
def State.giveBack (s : State) (v : Returned) : State := { s with returned := v }

/-- The CLIENT's load of the byte at `a` (R67, R165). -/
def State.clientLoad (s : State) (a : Nat) : State :=
  if bmemSize s.params ≤ a then s.faultRange.giveBack .nothing else s.giveBack (.byte (s.memByte a))

/-- The CLIENT's store of `v` at `a` (R66, R67, R166): outside BMEM nothing is written; a write to a buffer the block owns is
performed and recorded. -/
def State.clientStore (s : State) (a : Nat) (v : Byte) : State :=
  if bmemSize s.params ≤ a then s.faultRange
  else if s.owner (a / bufSize) == .client then s.memWrite a v
  else (s.memWrite a v).faultOwnership

/-- Arm the decoder with a buffer, or pause it: the writes INIT, ARM and RELEASE share (R151, R152, R160). -/
def State.arm (s : State) : Option Byte → State
  | some b => { s with rxidx := 0, rxbuf := b, rxst := .awaitStart }
  | none => { s with rxidx := 0, rxbuf := 0, rxst := .idle }

/-- The buffer operand names the buffer of a SEND in progress (R151, R152, R160). -/
def State.heldByTx (s : State) : Option Byte → Bool
  | some b => s.owner b.toNat == .tx
  | none => false

/-- INIT(buf) (R151), without the command step's event. -/
def State.initCmd (s : State) (buf : Option Byte) : State :=
  if s.rxst == .deliver then s.setResult .errState
  else if s.heldByTx buf then s.setResult .errState
  else (State.arm { s with crcerr := 0 } buf).setResult .ok

/-- ARM(buf) (R152), without the command step's event. -/
def State.armCmd (s : State) (buf : Option Byte) : State :=
  if s.rxst == .deliver then s.setResult .errState
  else if s.heldByTx buf then s.setResult .errState
  else (s.arm buf).setResult .ok

/-- RELEASE(buf) (R160), without the command step's event: the return from a delivery (R199). -/
def State.releaseCmd (s : State) (buf : Option Byte) : State :=
  if s.rxst != .deliver then s.setResult .errState
  else if s.heldByTx buf then s.setResult .errState
  else (s.arm buf).setResult .ok

/-- TXOUT[i]: a byte the encoder has not written is a free draw (R27). -/
def State.txoutByte (s : State) (i : Nat) : Byte := (s.txout[i]?).getD (Config.txoutDraw s.txoutEpoch i)

/-- The encoder's writes to TXOUT (R101): on Ok the output from index 0, the bytes past it kept; on LenErr every byte unspecified.
TXOUT has TX_CAP bytes. -/
def State.encodeToTxout (s : State) (src : List Byte) (cap : Nat) : State :=
  match slipResult src cap with
  | some n => { s with txout := (frameBytes src ++ s.txout.drop n).take s.params.txCap }
  | none => { s with txout := [], txoutEpoch := s.txoutEpoch + 1 }

/-- LENGTH of buffer `b`, little-endian (R52, R153). -/
def State.lengthOf (s : State) (b : Byte) : Nat := (s.memByte (base b)).toNat + 256 * (s.memByte (base b + 1)).toNat

/-- The span bytes of buffer `b` that a SEND covers with its FCS: SAP, MSG, payload (R153). -/
def State.hdrPayload (s : State) (b : Byte) : List Byte := s.memBytes (span b) (hdrSize + s.lengthOf b)

/-- The FCS of buffer `b` (R53, R75). -/
def State.fcs (s : State) (b : Byte) : U16 := fcsOf (s.hdrPayload b)

/-- The unescaped frame SEND encodes (R73, R153). -/
def State.sendFrame (s : State) (b : Byte) : List Byte := s.hdrPayload b ++ le16 (s.fcs b)

/-- SEND's store of the FCS right after the payload, at offsets 4+n and 5+n of the buffer (R51, R53, R153). -/
def State.storeFcs (s : State) (b : Byte) : State :=
  s.memWrites (base b + lengthSize + hdrSize + s.lengthOf b) (le16 (s.fcs b))

/-- SEND from buffer `b`, once the checks have passed (R153): FCS store, encode, and on Ok the TX engine starts. -/
def State.sendFrom (s : State) (b : Byte) : State :=
  match slipResult (s.sendFrame b) s.params.txCap with
  | none => ((s.storeFcs b).encodeToTxout (s.sendFrame b) s.params.txCap).setResult .errLen
  | some n =>
    ({ (s.storeFcs b).encodeToTxout (s.sendFrame b) s.params.txCap with
        txlen := n, txpos := 0, txwake := s.params.wakeupCount, txbuf := b, txbusy := true }).setResult .ok

/-- SEND(buf) (R153), without the command step's event. -/
def State.sendCmd (s : State) : Option Byte → State
  | none => s.setResult .errNull
  | some b =>
    if s.txbusy then s.setResult .errState
    else if s.owner b.toNat == .rx then s.setResult .errState
    else if payloadCap < s.lengthOf b then s.setResult .errLen
    else s.sendFrom b

/-- The rest of a command step after the decode (R150): BUF ≥ NBUF is ERR_BUF when P = 1 (R80), else the command runs; then the
event with the word and RESULT. -/
def State.command (s : State) (w : Word) (p : Bool) (buf : Byte) (run : State → State) : State :=
  let t := if p && s.params.nbuf ≤ buf.toNat then s.setResult .errBuf else run s
  t.emit (.cmd w t.result)

/-- A reserved word (R79): ERR_OP, and the event. -/
def State.reservedCommand (s : State) (w : Word) : State := (s.setResult .errOp).emit (.cmd w .errOp)

/-- The command step `WR CMD, w` (R150): decode and run. -/
def State.commandStep (s : State) (w : Word) : State :=
  if reservedWord w then s.reservedCommand w
  else s.command w (cmdP w) (cmdBuf w) (fun t =>
    if cmdOp w == opINIT then t.initCmd (bufOperand (cmdP w) (cmdBuf w))
    else if cmdOp w == opARM then t.armCmd (bufOperand (cmdP w) (cmdBuf w))
    else if cmdOp w == opSEND then t.sendCmd (bufOperand (cmdP w) (cmdBuf w))
    else t.releaseCmd (bufOperand (cmdP w) (cmdBuf w)))

/-- STORE(v) (R103): into the span of the armed buffer, saturating at RX_CAP. -/
def State.storeByte (s : State) (v : Byte) : State :=
  if s.rxidx.toNat < rxCap then { s.memWrite (span s.rxbuf + s.rxidx.toNat) v with rxidx := s.rxidx + 1 } else s

/-- A short frame (R157). -/
def State.discardShort (s : State) (len : Nat) : State := { s.emit (.discard .short len) with rxst := .awaitStart }

/-- A CRC failure (R158): the counter wraps at 2^32. -/
def State.discardCrc (s : State) (len : Nat) : State :=
  { s.emit (.discard .crc len) with crcerr := s.crcerr + 1, rxst := .awaitStart }

/-- Delivery of a valid frame (R159, R198): LENGTH is written, RXST becomes DELIVER, MSG_READY is raised. -/
def State.deliverMsg (s : State) (len : Nat) : State :=
  { (s.memWrites (base s.rxbuf) (le16 (BitVec.ofNat 16 (len - hdrSize - fcsSize)))).emit
      (.msgReady s.rxbuf (len - hdrSize - fcsSize)) with rxst := .deliver }

/-- FRAME_COMPLETE(L) (R156). -/
def State.frameComplete (s : State) (len : Nat) : State :=
  if len < minFrame then State.discardShort { s with rxidx := 0 } len
  else if crcCheck (s.memBytes (span s.rxbuf) len) len crcInit then State.deliverMsg { s with rxidx := 0 } len
  else State.discardCrc { s with rxidx := 0 } len

/-- An invalid escape (R114). -/
def State.abortFrame (s : State) : State :=
  { s.emit (.discard .abort s.rxidx.toNat) with rxidx := 0, rxst := .awaitStart }

/-- The decoder's rules R105 to R114, after the byte is taken. -/
def State.decodeByte (s : State) (d : Byte) : State :=
  match s.rxst with
  | .idle => s                                                                       -- R105
  | .awaitStart => if d == wireEND then { s with rxidx := 0, rxst := .inFrame }      -- R106
    else s                                                                           -- R107
  | .inFrame =>
    if d == wireEND then
      if s.rxidx == 0 then s                                                         -- R109
      else s.frameComplete s.rxidx.toNat                                             -- R108
    else if d == wireESC then { s with rxst := .escape }                             -- R110
    else s.storeByte d                                                               -- R111
  | .escape =>
    if d == wireESC_END then { s.storeByte wireEND with rxst := .inFrame }           -- R112
    else if d == wireESC_ESC then { s.storeByte wireESC with rxst := .inFrame }      -- R113
    else s.abortFrame                                                                -- R114
  | .deliver => s

/-- `RX d` (R104): in DELIVER the step is not enabled, and LINE_RX keeps its byte as the next it will offer (R224); otherwise the
byte is taken and decoded. -/
def State.rxStep (s : State) (d : Byte) : State :=
  if s.rxReady then (s.emit (.rxIn d)).decodeByte d else { s with line := d :: s.line }

/-- LINE_RX offers the oldest byte it holds. -/
def State.offerLine (s : State) : State :=
  match s.line with
  | [] => s
  | d :: rest => State.rxStep { s with line := rest } d

/-- SEND completion (R155). -/
def State.completeSend (s : State) : State := { s.emit (.txDone s.txbuf) with txbusy := false, txbuf := 0 }

/-- `TXACK` (R154, R155): not enabled while TXBUSY = 0. -/
def State.txackStep (s : State) : State :=
  if !s.txValid then s
  else if 0 < s.txwake then { s.emit (.txOut s.params.wakeupByte) with txwake := s.txwake - 1 }
  else
    let t := { s.emit (.txOut (s.txoutByte s.txpos)) with txpos := s.txpos + 1 }
    if s.txpos + 1 == s.txlen then t.completeSend else t

/-- `RESET` (R220): every register at its reset value, BMEM and TXOUT unspecified anew, the history empty. The parameters and the
environment's own fields stay (notes/assumptions/18.md). -/
def State.powerOn (s : State) : State :=
  { State.resetWith s.params with
    bmemEpoch := s.bmemEpoch + 1, txoutEpoch := s.txoutEpoch + 1, line := s.line, turns := s.turns, returned := s.returned }

/-- The steps of a pseudo-instruction that come after its first one are the environment's next turns (R84, R85). -/
def State.queueTurns (s : State) (ts : List Turn) : State := { s with turns := ts ++ s.turns }

/-- The turns `ST a, v0 ; ST a+1, v1 ; ...`. -/
def storeTurns (a : Nat) : List Byte → List Turn
  | [] => []
  | v :: vs => .memWrite a v :: storeTurns (a + 1) vs

/-- A sequence of separate ST steps (R84): the first is taken now, the others are the CLIENT's next turns. -/
def State.storeSequence (s : State) (a : Nat) : List Byte → State
  | [] => s
  | v :: vs => (s.queueTurns (storeTurns (a + 1) vs)).clientStore a v

/-- A sequence of separate RX steps (R84): the bytes join LINE_RX's, it offers one now and the others in its next turns. -/
def State.rxSequence (s : State) : List Byte → State
  | [] => s
  | d :: ds => State.offerLine { s.queueTurns (List.replicate ds.length .rxHeld) with line := s.line ++ d :: ds }

/-- A two-byte symbol (R71, R72): its first byte is offered now, its second is what LINE_RX offers in its next turn. -/
def State.symbolPair (s : State) (d e : Byte) : State := State.rxStep { s.queueTurns [.rxHeld] with line := e :: s.line } d

/-- TXACK* (R85): one TXACK now, and again in LINE_TX's next turn until TXBUSY = 0. -/
def State.txackRepeat (s : State) : State :=
  if !s.txValid then s
  else if s.txackStep.txbusy then s.txackStep.queueTurns [.pseudo .txackAll] else s.txackStep

end Sys2Proof.Machine
end

