-- ==== Sys2Proof/Machine/BufferMemory.lean ====
section
/-! DEFINITION. Machine/BufferMemory.lean: the meanings of the CLIENT's BMEM accesses (format MEM8; rules R165, R166 of spec/42_hci_transport.md). -/

namespace Sys2Proof.Machine

/-- LD (R165, R67). -/
def execLd (a : Nat) (s : State) : Host.Outcome State Fault Refusal := .next (s.clientLoad a)

/-- ST (R166, R66, R67). -/
def execSt (a : Nat) (v : Byte) (s : State) : Host.Outcome State Fault Refusal := .next (s.clientStore a v)

end Sys2Proof.Machine
end

