-- ==== Sys2Proof/Machine/Commands.lean ====
section
/-! DEFINITION. Machine/Commands.lean: the meanings of the command words (format CMD32; rules R150 to R153, R160 of spec/42_hci_transport.md, R79 of spec/30_encoding.md). -/

namespace Sys2Proof.Machine

/-- INIT (R151): CRCERR cleared, the decoder armed or paused. -/
def execInit (p : Bool) (buf : Byte) (s : State) : Host.Outcome State Fault Refusal := .next (s.command (commandWord opINIT p buf) p buf (fun t => t.initCmd (bufOperand p buf)))

/-- ARM (R152): as INIT, CRCERR kept. -/
def execArm (p : Bool) (buf : Byte) (s : State) : Host.Outcome State Fault Refusal := .next (s.command (commandWord opARM p buf) p buf (fun t => t.armCmd (bufOperand p buf)))

/-- SEND (R153): FCS stored, frame encoded into TXOUT, the TX engine started. -/
def execSend (p : Bool) (buf : Byte) (s : State) : Host.Outcome State Fault Refusal := .next (s.command (commandWord opSEND p buf) p buf (fun t => t.sendCmd (bufOperand p buf)))

/-- RELEASE (R160): the end of a delivery. -/
def execRelease (p : Bool) (buf : Byte) (s : State) : Host.Outcome State Fault Refusal := .next (s.command (commandWord opRELEASE p buf) p buf (fun t => t.releaseCmd (bufOperand p buf)))

/-- CMD_RESERVED (R79): ERR_OP. The word goes through the command decoder of R150, as every word written to CMD does. -/
def execCmdReserved (w : Word) (s : State) : Host.Outcome State Fault Refusal := .next (s.commandStep w)

end Sys2Proof.Machine
end

