-- ==== Sys2Proof/Machine/Internal.lean ====
section
/-! DEFINITION. Machine/Internal.lean: the meanings of the functions and sub-operations the block's own rules call (format INTERNAL; rules R101, R103, R130, R131, R156 to R159). No agent has a turn for one: they run inside SEND and RX steps. notes/assumptions/12.md. -/

namespace Sys2Proof.Machine

/-- CRC16 (R130, R135): only the value returned. -/
def execCrc16 (data : List Byte) (n : Nat) (seed : U16) (s : State) : Host.Outcome State Fault Refusal := .next (s.giveBack (.crc (crc16 data n seed)))

/-- CRC_CHECK (R131, R135): only the value returned. -/
def execCrcCheck (data : List Byte) (n : Nat) (seed : U16) (s : State) : Host.Outcome State Fault Refusal := .next (s.giveBack (.check (crcCheck data n seed)))

/-- SLIP_ENCODE (R101): TXOUT written, the length or LenErr returned. -/
def execSlipEncode (src : List Byte) (cap : Nat) (s : State) : Host.Outcome State Fault Refusal := .next ((s.encodeToTxout src cap).giveBack (.encoded (slipResult src cap)))

/-- STORE (R103). -/
def execStore (v : Byte) (s : State) : Host.Outcome State Fault Refusal := .next (s.storeByte v)

/-- FRAME_COMPLETE (R156). -/
def execFrameComplete (len : Nat) (s : State) : Host.Outcome State Fault Refusal := .next (s.frameComplete len)

/-- FRAME_COMPLETE short (R157). -/
def execFrameCompleteShort (len : Nat) (s : State) : Host.Outcome State Fault Refusal := .next (s.discardShort len)

/-- FRAME_COMPLETE crc-fail (R158). -/
def execFrameCompleteCrcFail (len : Nat) (s : State) : Host.Outcome State Fault Refusal := .next (s.discardCrc len)

/-- FRAME_COMPLETE deliver (R159). -/
def execFrameCompleteDeliver (len : Nat) (s : State) : Host.Outcome State Fault Refusal := .next (s.deliverMsg len)

end Sys2Proof.Machine
end

