-- ==== Sys2Proof/Machine/Platform.lean ====
section
/-! DEFINITION. Machine/Platform.lean: the meanings of the environment rows TXACK and RESET (format ENV; rules R154, R155 of spec/42_hci_transport.md, R220 of spec/70_reset_and_hazards.md). -/

namespace Sys2Proof.Machine

/-- TXACK (R154, R155): LINE_TX takes one byte; while TXBUSY = 0 the step is not enabled and nothing changes. -/
def execTxack (s : State) : Host.Outcome State Fault Refusal := .next (s.txackStep)

/-- RESET (R220). -/
def execReset (s : State) : Host.Outcome State Fault Refusal := .next (s.powerOn)

end Sys2Proof.Machine
end

