-- ==== Sys2Proof/Machine/PseudoOps.lean ====
section
/-! DEFINITION. Machine/PseudoOps.lean: the meanings of the pseudo-instructions (format PSEUDO; rules R84, R85 of spec/30_encoding.md): a sequence of separate steps, the first taken now, the others queued as their agent's next turns. notes/assumptions/13.md. -/

namespace Sys2Proof.Machine

/-- PAUSE = `ARM none`. -/
def execPause (s : State) : Host.Outcome State Fault Refusal := .next (s.command (commandWord opARM false 0) false 0 (fun t => t.armCmd none))

/-- SETLEN bN, n: two ST to LENGTH. -/
def execSetlen (buf : Byte) (n : U16) (s : State) : Host.Outcome State Fault Refusal := .next (s.storeSequence (base buf) (le16 n))

/-- FILL bN, off, data: ST from base(N)+off. -/
def execFill (buf : Byte) (off : Nat) (data : List Byte) (s : State) : Host.Outcome State Fault Refusal := .next (s.storeSequence (base buf + off) data)

/-- MSG bN, sap, mid, payload: SETLEN, then FILL from offset 2; the addresses are consecutive. -/
def execMsg (buf : Byte) (sap mid : Byte) (payload : List Byte) (s : State) : Host.Outcome State Fault Refusal := .next (s.storeSequence (base buf) (le16 (BitVec.ofNat 16 payload.length) ++ sap :: mid :: payload))

/-- RXS data: an RX step per byte. -/
def execRxs (data : List Byte) (s : State) : Host.Outcome State Fault Refusal := .next (s.rxSequence data)

/-- TXACK*: TXACK until TXBUSY = 0. -/
def execTxackAll (s : State) : Host.Outcome State Fault Refusal := .next (s.txackRepeat)

end Sys2Proof.Machine
end

