-- ==== Sys2Proof/Machine/Receive.lean ====
section
/-! DEFINITION. Machine/Receive.lean: the meanings of the decoder rows (format WIRE8 by state, rules R105 to R114 of spec/40_slip_codec.md). A row names the byte offered and the state in which the fetch selects it; R104 dispatches an offer on RXST, so in any other state the same offer takes that state's rule. notes/assumptions/10.md. -/

namespace Sys2Proof.Machine

/-- RX__IDLE (R105): dropped. -/
def execRxIdle (d : Byte) (s : State) : Host.Outcome State Fault Refusal := .next (s.rxStep d)

/-- RX_END__AWAIT_START (R106): a frame opens. -/
def execRxEndAwaitStart (s : State) : Host.Outcome State Fault Refusal := .next (s.rxStep wireEND)

/-- RX_other__AWAIT_START (R107): dropped. -/
def execRxOtherAwaitStart (d : Byte) (s : State) : Host.Outcome State Fault Refusal := .next (s.rxStep d)

/-- RX_END__IN_FRAME__RXIDX_0 (R108): the frame closes, FRAME_COMPLETE(RXIDX). -/
def execRxEndInFrameStored (s : State) : Host.Outcome State Fault Refusal := .next (s.rxStep wireEND)

/-- RX_END__IN_FRAME__RXIDX_0_2 (R109): no change. -/
def execRxEndInFrameEmpty (s : State) : Host.Outcome State Fault Refusal := .next (s.rxStep wireEND)

/-- RX_ESC__IN_FRAME (R110): an escape begins. -/
def execRxEscInFrame (s : State) : Host.Outcome State Fault Refusal := .next (s.rxStep wireESC)

/-- RX_data__IN_FRAME (R111): STORE(d). -/
def execRxDataInFrame (d : Byte) (s : State) : Host.Outcome State Fault Refusal := .next (s.rxStep d)

/-- RX_ESC_END__ESCAPE (R112): STORE(0xC0). -/
def execRxEscEndEscape (s : State) : Host.Outcome State Fault Refusal := .next (s.rxStep wireESC_END)

/-- RX_ESC_ESC__ESCAPE (R113): STORE(0xDB). -/
def execRxEscEscEscape (s : State) : Host.Outcome State Fault Refusal := .next (s.rxStep wireESC_ESC)

/-- RX_other__ESCAPE (R114): the frame is aborted. -/
def execRxOtherEscape (d : Byte) (s : State) : Host.Outcome State Fault Refusal := .next (s.rxStep d)

end Sys2Proof.Machine
end

