-- ==== Sys2Proof/Machine/Registers.lean ====
section
/-! DEFINITION. Machine/Registers.lean: the meanings of the register accesses (format REG8; rules R150, R161 to R164 of spec/42_hci_transport.md). No read has a side effect on the block; the word read is handed to the CLIENT in `returned`. -/

namespace Sys2Proof.Machine

/-- RD_STATUS (R161, R32). -/
def execRdStatus (s : State) : Host.Outcome State Fault Refusal := .next (s.giveBack (.register s.statusWord))

/-- RD_RXCNT (R162, R33). -/
def execRdRxcnt (s : State) : Host.Outcome State Fault Refusal := .next (s.giveBack (.register (s.rxidx.setWidth 32)))

/-- RD_CRCERR (R163, R34): reading does not clear the counter. -/
def execRdCrcerr (s : State) : Host.Outcome State Fault Refusal := .next (s.giveBack (.register s.crcerr))

/-- WR_CMD (R150): the command step. -/
def execWrCmd (w : Word) (s : State) : Host.Outcome State Fault Refusal := .next (s.commandStep w)

/-- RD_WR_other (R164, R35, R36): reads of CMD and of 4..255 return 0, writes to every register but CMD change nothing. A register
number outside the row's range is that register's own access. -/
def execRdWrOther (a : RegAccess) (s : State) : Host.Outcome State Fault Refusal :=
  match a with
  | .read k => .next (s.giveBack (.register (s.regWord k)))
  | .write k v => .next (if k == 3 then s.commandStep v else s)

end Sys2Proof.Machine
end

