-- ==== Sys2Proof/Machine/Wire.lean ====
section
/-! DEFINITION. Machine/Wire.lean: the meanings of the reserved wire bytes (format WIRE8, rule R70 of spec/30_encoding.md) and of the wire symbols (format WIRE_SYMBOL, rule R71): LINE_RX offers these bytes to the decoder, one per step (R72, R104). notes/assumptions/11.md. -/

namespace Sys2Proof.Machine

/-- END: LINE_RX offers 0xC0. -/
def execWireEnd (s : State) : Host.Outcome State Fault Refusal := .next (s.rxStep wireEND)

/-- ESC: LINE_RX offers 0xDB. -/
def execWireEsc (s : State) : Host.Outcome State Fault Refusal := .next (s.rxStep wireESC)

/-- ESC_END: LINE_RX offers 0xDC. -/
def execWireEscEnd (s : State) : Host.Outcome State Fault Refusal := .next (s.rxStep wireESC_END)

/-- ESC_ESC: LINE_RX offers 0xDD. -/
def execWireEscEsc (s : State) : Host.Outcome State Fault Refusal := .next (s.rxStep wireESC_ESC)

/-- DELIM: the symbol [C0]. -/
def execDelim (s : State) : Host.Outcome State Fault Refusal := .next (s.rxStep wireEND)

/-- LIT(d): the symbol [d]. -/
def execLit (d : Byte) (s : State) : Host.Outcome State Fault Refusal := .next (s.rxStep d)

/-- XEND: the symbol [DB, DC], which stands for data byte 0xC0. -/
def execXend (s : State) : Host.Outcome State Fault Refusal := .next (s.symbolPair wireESC wireESC_END)

/-- XESC: the symbol [DB, DD], which stands for data byte 0xDB. -/
def execXesc (s : State) : Host.Outcome State Fault Refusal := .next (s.symbolPair wireESC wireESC_ESC)

end Sys2Proof.Machine
end

