-- ==== Sys2Proof/Machine/Dispatch.lean ====
section
/-! DEFINITION. Machine/Dispatch.lean: one arm per operation, each one direct call of its meaning. -/

namespace Sys2Proof.Machine

def exec (i : Instr) (s : State) : Host.Outcome State Fault Refusal :=
  match i with
  | .init p buf => Sys2Proof.Machine.execInit p buf s
  | .arm p buf => Sys2Proof.Machine.execArm p buf s
  | .send p buf => Sys2Proof.Machine.execSend p buf s
  | .release p buf => Sys2Proof.Machine.execRelease p buf s
  | .cmdReserved w => Sys2Proof.Machine.execCmdReserved w s
  | .rdStatus => Sys2Proof.Machine.execRdStatus s
  | .rdRxcnt => Sys2Proof.Machine.execRdRxcnt s
  | .rdCrcerr => Sys2Proof.Machine.execRdCrcerr s
  | .wrCmd w => Sys2Proof.Machine.execWrCmd w s
  | .rdWrOther a => Sys2Proof.Machine.execRdWrOther a s
  | .ld a => Sys2Proof.Machine.execLd a s
  | .st a v => Sys2Proof.Machine.execSt a v s
  | .wireEnd => Sys2Proof.Machine.execWireEnd s
  | .wireEsc => Sys2Proof.Machine.execWireEsc s
  | .wireEscEnd => Sys2Proof.Machine.execWireEscEnd s
  | .wireEscEsc => Sys2Proof.Machine.execWireEscEsc s
  | .delim => Sys2Proof.Machine.execDelim s
  | .lit d => Sys2Proof.Machine.execLit d s
  | .xend => Sys2Proof.Machine.execXend s
  | .xesc => Sys2Proof.Machine.execXesc s
  | .rxIdle d => Sys2Proof.Machine.execRxIdle d s
  | .rxEndAwaitStart => Sys2Proof.Machine.execRxEndAwaitStart s
  | .rxOtherAwaitStart d => Sys2Proof.Machine.execRxOtherAwaitStart d s
  | .rxEndInFrameStored => Sys2Proof.Machine.execRxEndInFrameStored s
  | .rxEndInFrameEmpty => Sys2Proof.Machine.execRxEndInFrameEmpty s
  | .rxEscInFrame => Sys2Proof.Machine.execRxEscInFrame s
  | .rxDataInFrame d => Sys2Proof.Machine.execRxDataInFrame d s
  | .rxEscEndEscape => Sys2Proof.Machine.execRxEscEndEscape s
  | .rxEscEscEscape => Sys2Proof.Machine.execRxEscEscEscape s
  | .rxOtherEscape d => Sys2Proof.Machine.execRxOtherEscape d s
  | .txack => Sys2Proof.Machine.execTxack s
  | .reset => Sys2Proof.Machine.execReset s
  | .crc16 data n seed => Sys2Proof.Machine.execCrc16 data n seed s
  | .crcCheck data n seed => Sys2Proof.Machine.execCrcCheck data n seed s
  | .slipEncode src cap => Sys2Proof.Machine.execSlipEncode src cap s
  | .store v => Sys2Proof.Machine.execStore v s
  | .frameComplete len => Sys2Proof.Machine.execFrameComplete len s
  | .frameCompleteShort len => Sys2Proof.Machine.execFrameCompleteShort len s
  | .frameCompleteCrcFail len => Sys2Proof.Machine.execFrameCompleteCrcFail len s
  | .frameCompleteDeliver len => Sys2Proof.Machine.execFrameCompleteDeliver len s
  | .pause => Sys2Proof.Machine.execPause s
  | .setlen buf n => Sys2Proof.Machine.execSetlen buf n s
  | .fill buf off data => Sys2Proof.Machine.execFill buf off data s
  | .msg buf sap mid payload => Sys2Proof.Machine.execMsg buf sap mid payload s
  | .rxs data => Sys2Proof.Machine.execRxs data s
  | .txackAll => Sys2Proof.Machine.execTxackAll s

end Sys2Proof.Machine
end

