-- ==== Sys2Proof/Machine/Fetch.lean ====
section
/-! DEFINITION. Machine/Fetch.lean: which operation the next step runs. The block fetches no instructions (rule R30 of
spec/10_state.md): the environment's next turn says which agent steps, and what it offers is decoded. -/

namespace Sys2Proof.Machine

/-- LINE_RX's offer: the row of the oldest byte it holds (R104, R115); with no byte, or in DELIVER, it waits. -/
def State.fetchLine (s : State) : Fetched :=
  match s.line with
  | [] => .wait s
  | d :: rest =>
    match decodeRx s.rxst (s.rxidx != 0) d with
    | some i => .run i { s with line := rest }
    | none => .wait s

/-- The next operation: the first turn, decoded; with no turn left nothing happens. -/
def State.fetch (s : State) : Fetched :=
  match s.turns with
  | [] => .wait s
  | t :: rest =>
    let u := { s with turns := rest }
    match t with
    | .command w => .run (decodeCommand w) u
    | .regRead k => .run (decodeRegRead k) u
    | .regWrite k v => .run (decodeRegWrite k v) u
    | .memRead a => .run (.ld a) u
    | .memWrite a v => .run (.st a v) u
    | .rx d => State.fetchLine { u with line := u.line ++ [d] }
    | .rxHeld => u.fetchLine
    | .txAccept => .run .txack u
    | .powerOn => .run .reset u
    | .pseudo p => .run (decodePseudo p) u

/-- The state in which the next step runs the operation a table word stands for (`decodeTableWord`): its turn comes first, and a wire
byte is the first LINE_RX holds. -/
def State.placeTableWord (s : State) (nbits w : Nat) : State :=
  let b : Byte := BitVec.ofNat 8 w
  match nbits with
  | 32 => { s with turns := .command (BitVec.ofNat 32 w) :: s.turns }
  | 16 =>
    match decodeTableWord 16 w with
    | some _ => { s with turns := .rxHeld :: .rxHeld :: s.turns, line := BitVec.ofNat 8 (w / 256) :: b :: s.line }
    | none => s
  | 8 =>
    match decodeWireByte b with
    | .ok _ => { s with turns := .rxHeld :: s.turns, line := b :: s.line }
    | .error _ => if b == 3 then { s with turns := .regWrite 3 0 :: s.turns } else { s with turns := .regRead b :: s.turns }
  | _ => s

end Sys2Proof.Machine
end

