-- ==== Sys2Proof/Machine/Step.lean ====
section
/-! DEFINITION. Machine/Step.lean: one atomic step (rule R12 of spec/00_scope.md): the environment's next turn is fetched and run. -/

namespace Sys2Proof.Machine

/-- One step. -/
def step (s : State) : Host.Outcome State Fault Refusal :=
  match s.fetch with
  | .wait t => .next t
  | .run i t => exec i t

/-- The state in which the next step runs a table word's operation. notes/assumptions/15.md. -/
def State.withFetchWord (s : State) (nbits w : Nat) : State := s.placeTableWord nbits w

end Sys2Proof.Machine
end

