-- ==== Sys2Proof/Safety.lean ====
section
/-! DEFINITION. Safety.lean: what counts as a good state (rule R193 of spec/60_exceptions.md), and the invariant that every step keeps
(rules R20 to R30 and R38 of spec/10_state.md, R50 of spec/20_memory.md). -/

namespace Sys2Proof.Machine

/-- Rule R193: "no claim about a run may take a state with a fault as a good outcome". -/
abbrev State.noFaults (s : State) : Prop := s.faults = ⟨false, false⟩

/-- BMEM keeps its canonical form and lies inside the NBUF × 306 bytes of R50. -/
abbrev State.memoryOk (s : State) : Prop := Memory.wf s.bmem ∧ ∀ c ∈ s.bmem, c.1 < bmemSize s.params

/-- The receive registers: RXIDX ≤ RX_CAP (R23), RXBUF a buffer id (R20), 0 in IDLE (R22), RXIDX 0 outside a frame (R23). -/
abbrev State.receiveOk (s : State) : Prop :=
  s.rxidx.toNat ≤ rxCap ∧ s.rxbuf.toNat < s.params.nbuf ∧ (s.rxst = .idle → s.rxbuf = 0) ∧
    (s.rxst ≠ .inFrame → s.rxst ≠ .escape → s.rxidx = 0)

/-- The transmit registers: TXOUT has TX_CAP bytes, TXPOS ≤ TXLEN ≤ TX_CAP (R20), TXWAKE ≤ WAKEUP_COUNT (R20), TXBUF and TXWAKE 0
while TXBUSY = 0 (R25), and while TXBUSY = 1 a byte is left to emit (R30) and every byte to emit was encoded (R27). -/
abbrev State.transmitOk (s : State) : Prop :=
  s.txout.length ≤ s.params.txCap ∧ s.txlen ≤ s.params.txCap ∧ s.txpos ≤ s.txlen ∧ s.txwake ≤ s.params.wakeupCount ∧
    (s.txbusy = false → s.txbuf = 0 ∧ s.txwake = 0) ∧
    (s.txbusy = true → s.txbuf.toNat < s.params.nbuf ∧ 2 ≤ s.txlen ∧ s.txpos < s.txlen ∧ s.txlen ≤ s.txout.length)

/-- RX and TX never own the same buffer (R38). -/
abbrev State.ownersOk (s : State) : Prop := RxState.armed s.rxst = true → s.txbusy = true → s.rxbuf ≠ s.txbuf

/-- The invariant of the block. -/
abbrev State.Inv (s : State) : Prop := s.params.ok ∧ s.memoryOk ∧ s.receiveOk ∧ s.transmitOk ∧ s.ownersOk

end Sys2Proof.Machine
end

