-- ==== Sys2Proof/Certificates/Slice0/Obligations.lean ====
section
/-! DEFINITION. Certificates/Slice0/Obligations.lean: the statements for the provers. Rule numbers are those of spec/. Nothing is proved
here. `Spec` holds the few expressions the statements share, written from the rules and not from the model's own functions. -/

open Sys2Proof Sys2Proof.Machine

/-- The address of byte `off` of message buffer `b` (R50, R51). -/
def Sys2Proof.Spec.at (b : Byte) (off : Nat) : Nat := 306 * b.toNat + off

/-- `[MemRead(a+i, 1) for i in 0 .. n-1]`. -/
def Sys2Proof.Spec.bytesFrom (s : State) (a n : Nat) : List Byte := (List.range n).map (fun i => s.memByte (a + i))

/-- LENGTH of buffer `b` (R52). -/
def Sys2Proof.Spec.lengthField (s : State) (b : Byte) : Nat :=
  (s.memByte (Spec.at b 0)).toNat + 256 * (s.memByte (Spec.at b 1)).toNat

/-- SAP, message id and payload of buffer `b` (R153). -/
def Sys2Proof.Spec.message (s : State) (b : Byte) : List Byte := Spec.bytesFrom s (Spec.at b 2) (2 + Spec.lengthField s b)

/-- The FCS of a message, low byte first (R75). -/
def Sys2Proof.Spec.fcsBytes (msg : List Byte) : List Byte :=
  [(~~~ crc16 msg msg.length 0xFFFF).setWidth 8, ((~~~ crc16 msg msg.length 0xFFFF) >>> 8).setWidth 8]

/-- esc(d) (R100). -/
def Sys2Proof.Spec.esc (d : Byte) : List Byte :=
  if d = 0xC0 then [0xDB, 0xDC] else if d = 0xDB then [0xDB, 0xDD] else [d]

/-- A frame on the wire: `[END] ++ esc*(span) ++ [END]` (R73, R101). -/
def Sys2Proof.Spec.onWire (span : List Byte) : List Byte := [0xC0] ++ span.flatMap Spec.esc ++ [0xC0]

/-- The bytes SEND puts on the wire for buffer `b` (R153). -/
def Sys2Proof.Spec.sent (s : State) (b : Byte) : List Byte :=
  Spec.onWire (Spec.message s b ++ Spec.fcsBytes (Spec.message s b))

/-- The buffer operand of a command names a buffer of the block, when it names one (R80). -/
def Sys2Proof.Spec.bufOk (s : State) (p : Bool) (b : Byte) : Prop := p = true → b.toNat < s.params.nbuf

/-- The command word of R77 and R83: OP, 16 when P = 1, BUF in bits [15:8]. -/
def Sys2Proof.Spec.word (op : Nat) (p : Bool) (b : Byte) : Word := BitVec.ofNat 32 (op + (if p then 16 else 0) + 256 * b.toNat)

/-- ARM's and INIT's and RELEASE's new decoder state (R151, R152, R160). -/
def Sys2Proof.Spec.armed (p : Bool) : RxState := if p then .awaitStart else .idle

/-- The row of the opcode table that a byte offered in state `s` takes (R104). -/
def Sys2Proof.Spec.row (s : State) (d : Byte) : Option Instr := decode (.rx8 s.rxst (s.rxidx != 0) d) |>.toOption

/-- The operations that offer one byte to the decoder, with that byte: the reserved bytes, the one-byte symbols and the decoder's own rows
(R70, R71, R105 to R114), for any data byte `d` where a row has one. -/
def Sys2Proof.Spec.offers (d : Byte) : List (Instr × Byte) :=
  [(.wireEnd, 0xC0), (.wireEsc, 0xDB), (.wireEscEnd, 0xDC), (.wireEscEsc, 0xDD), (.delim, 0xC0), (.lit d, d), (.rxIdle d, d),
   (.rxEndAwaitStart, 0xC0), (.rxOtherAwaitStart d, d), (.rxEndInFrameStored, 0xC0), (.rxEndInFrameEmpty, 0xC0), (.rxEscInFrame, 0xDB),
   (.rxDataInFrame d, d), (.rxEscEndEscape, 0xDC), (.rxEscEscEscape, 0xDD), (.rxOtherEscape d, d)]

/-- The two-byte symbols, with their second byte (R71). -/
def Sys2Proof.Spec.symbolPairs : List (Instr × Byte) := [(.xend, 0xDC), (.xesc, 0xDD)]

/-- Nothing but events: the state a dropped byte leaves (R105, R107, R109). -/
def Sys2Proof.Spec.took (s : State) (d : Byte) : State := { s with events := s.events ++ [.rxIn d] }

/-- In `t` the bytes from address `a` on are `data`, and every other address reads as in `s`. -/
def Sys2Proof.Spec.stored (s t : State) (a : Nat) (data : List Byte) : Prop :=
  (∀ k (h : k < data.length), t.memByte (a + k) = data[k]) ∧ ∀ x, x < a ∨ a + data.length ≤ x → t.memByte x = s.memByte x

/-! ### Reset and the invariant -/

/-- R220: every register at its reset value, FAULTS and history empty, BMEM and TXOUT free draws; RESET and the reset state. -/
def Obligations.ResetSetsSpecValues : Prop :=
  (∀ s, ∃ t, exec .reset s = .next t ∧
    t.rxst = .idle ∧ t.rxbuf = 0 ∧ t.rxidx = 0 ∧ t.crcerr = 0 ∧ t.txbusy = false ∧ t.txbuf = 0 ∧ t.txwake = 0 ∧ t.txlen = 0 ∧
    t.txpos = 0 ∧ t.result = .ok ∧ t.faults = ⟨false, false⟩ ∧ t.events = [] ∧
    (∀ a, t.memByte a = Config.bmemDraw t.bmemEpoch a) ∧ ∀ i, t.txoutByte i = Config.txoutDraw t.txoutEpoch i) ∧
  ∀ p, (State.resetWith p).rxst = .idle ∧ (State.resetWith p).statusWord = 0 ∧ (State.resetWith p).crcerr = 0 ∧
    (State.resetWith p).rxidx = 0 ∧ (State.resetWith p).txwake = 0 ∧ (State.resetWith p).txlen = 0 ∧ (State.resetWith p).txpos = 0 ∧
    (State.resetWith p).faults = ⟨false, false⟩ ∧ (State.resetWith p).events = [] ∧
    ∀ a, (State.resetWith p).memByte a = Config.bmemDraw (State.resetWith p).bmemEpoch a

/-- The invariant holds right after reset, for all parameters of R8's ranges. -/
def Obligations.InvariantHoldsAtReset : Prop := State.reset.Inv ∧ ∀ p : Params, p.ok → (State.resetWith p).Inv

/-- Every step keeps the invariant: BMEM canonical and in range, RXIDX ≤ RX_CAP and 0 outside a frame, RXBUF a buffer id and 0 in IDLE,
TXPOS < TXLEN ≤ TX_CAP while sending, TXBUF 0 while not, and RX and TX never own one buffer. -/
def Obligations.EveryStepKeepsInvariant : Prop := ∀ s t : State, s.Inv → step s = .next t → t.Inv

/-- R190, R8: no operation and no step stops the block, and none changes a parameter. -/
def Obligations.EveryOperationCompletesAndKeepsParameters : Prop :=
  (∀ i s, ∃ t, exec i s = .next t ∧ t.params = s.params) ∧ ∀ s, ∃ t, step s = .next t ∧ t.params = s.params

/-! ### Encodings -/

/-- Decoding the encoding of any well-formed operation gives it back, with every operand. -/
def Obligations.DecodeOfEncodeIsIdentity : Prop := ∀ i : Instr, i.wf = true → decode (encode i) = .ok i

/-- Every 32-bit word is one command's or reserved, and is the encoding of what it decodes to: no bit is lost,
BUF under P = 0 included (the event carries it). -/
def Obligations.EncodeOfDecodedCommandIsTheWord : Prop :=
  ∀ w : Word, encode (decodeCommand w) = .cmd32 w ∧ (decodeCommand w).wf = true

/-- R83's command words and R70's and R71's bytes, written out, decode to what they stand for. -/
def Obligations.SpecWordsDecode : Prop :=
  decode (.cmd32 0x00000111) = .ok (.init true 1) ∧ decode (.cmd32 0x00000002) = .ok (.arm false 0) ∧
  decode (.cmd32 0x00000213) = .ok (.send true 2) ∧ decode (.cmd32 0x00000014) = .ok (.release true 0) ∧
  decode (.cmd32 0x00010011) = .ok (.cmdReserved 0x00010011) ∧ decode (.reg8 0 none) = .ok .rdStatus ∧
  decode (.reg8 3 (some 5)) = .ok (.wrCmd 5) ∧ decode (.wire8 0xC0) = .ok .wireEnd ∧
  decode (.wireSymbol [0xDB, 0xDC]) = .ok .xend ∧ decode (.rx8 .escape false 0xDD) = .ok .rxEscEscEscape ∧
  decode (.wireSymbol [0xDB, 0x41]) = .error (.invalidEscape 0x41)

/-- R71, R72: the encoder's output is DELIM, one symbol per data byte, DELIM, and reading it back symbol by symbol gives exactly these:
stated for the symbol at the head of any stream, and with no END between the delimiters. -/
def Obligations.EncoderEmitsSymbols : Prop :=
  (∀ d rest, decodeSymbol (Spec.esc d ++ rest) = .ok (if d = 0xC0 then .xend else if d = 0xDB then .xesc else .lit d, rest)) ∧
  (∀ rest, decodeSymbol (0xC0 :: rest) = .ok (.delim, rest)) ∧
  ∀ src : List Byte, frameBytes src = Spec.onWire src ∧ (0xC0 : Byte) ∉ src.flatMap Spec.esc

/-! ### The step -/

/-- A step runs the operation its turn decodes to, with the turn gone; a byte LINE_RX offers is decoded in the decoder's state (R104), and
the environment's other turns and bytes stay. With no turn, or nothing on the line, the block waits. The turn list, the answer with no turn
left, and how LINE_RX appends and offers its bytes are the model's own choice, not the spec's (notes/assumptions/1.md, 2.md and 3.md). -/
def Obligations.StepRunsDecodedOperation : Prop :=
  ∀ (s : State) (rest : List Turn),
    (∀ w i, s.turns = .command w :: rest → decode (.cmd32 w) = .ok i → step s = exec i { s with turns := rest }) ∧
    (∀ k i, s.turns = .regRead k :: rest → decode (.reg8 k none) = .ok i → step s = exec i { s with turns := rest }) ∧
    (∀ k v i, s.turns = .regWrite k v :: rest → decode (.reg8 k (some v)) = .ok i → step s = exec i { s with turns := rest }) ∧
    (∀ a i, s.turns = .memRead a :: rest → decode (.mem8 a none) = .ok i → step s = exec i { s with turns := rest }) ∧
    (∀ a v i, s.turns = .memWrite a v :: rest → decode (.mem8 a (some v)) = .ok i → step s = exec i { s with turns := rest }) ∧
    (s.turns = .txAccept :: rest → step s = exec .txack { s with turns := rest }) ∧
    (s.turns = .powerOn :: rest → step s = exec .reset { s with turns := rest }) ∧
    (∀ p i, s.turns = .pseudo p :: rest → decode (.pseudo p) = .ok i → step s = exec i { s with turns := rest }) ∧
    (∀ d i, s.turns = .rx d :: rest → s.line = [] → Spec.row s d = some i → step s = exec i { s with turns := rest }) ∧
    (∀ d e l i, s.turns = .rx d :: rest → s.line = e :: l → Spec.row s e = some i →
      step s = exec i { s with turns := rest, line := l ++ [d] }) ∧
    (∀ d l i, s.turns = .rxHeld :: rest → s.line = d :: l → Spec.row s d = some i →
      step s = exec i { s with turns := rest, line := l }) ∧
    (s.turns = .rxHeld :: rest → s.line = [] → step s = .next { s with turns := rest }) ∧
    (s.turns = [] → step s = .next s)

/-- The first step after a table word is placed runs the operation that word decodes to, in the state it was placed in. Where a word is
placed and how a table number is read are the model's own choice, not the spec's (notes/assumptions/14.md and 15.md). -/
def Obligations.PlacedTableWordRunsFirst : Prop :=
  ∀ (s : State) (nbits w : Nat) (i : Instr), decodeTableWord nbits w = some i → step (s.withFetchWord nbits w) = exec i s

/-- R104, R224: in DELIVER no byte is taken: a byte that reaches LINE_RX is kept, in order, and an operation that offers one anyway changes
nothing but that LINE_RX holds its bytes (how LINE_RX holds bytes is the model's choice, notes/assumptions/3.md and 11.md). -/
def Obligations.LineIsHeldDuringDelivery : Prop :=
  ∀ s : State, s.rxst = .deliver →
    (∀ d rest, s.turns = .rx d :: rest → step s = .next { s with turns := rest, line := s.line ++ [d] }) ∧
    (∀ rest, s.turns = .rxHeld :: rest → step s = .next { s with turns := rest }) ∧
    (∀ d i e, (i, e) ∈ Spec.offers d → exec i s = .next { s with line := e :: s.line }) ∧
    ∀ i e, (i, e) ∈ Spec.symbolPairs → exec i s = .next { s with line := 0xDB :: e :: s.line, turns := .rxHeld :: s.turns }

/-! ### Command words -/

/-- R83, R150: writing a word to CMD is the command the word decodes to; it completes in its own step. -/
def Obligations.WritingCmdRunsTheCommand : Prop :=
  ∀ (w : Word) (s : State), ∃ t, exec (.wrCmd w) s = .next t ∧ exec (decodeCommand w) s = .next t ∧
    t.events = s.events ++ [.cmd w t.result]

/-- R79: a word with a reserved OP or a reserved bit set gives ERR_OP and changes nothing but RESULT and the event, in every state. -/
def Obligations.ReservedWordGivesErrOp : Prop :=
  ∀ (w : Word) (s : State),
    (w &&& 0xF = 0 ∨ 4 < (w &&& 0xF).toNat ∨ w &&& 0xE0 ≠ 0 ∨ w &&& 0xFFFF0000 ≠ 0) →
    (∃ t, t = { s with result := .errOp, events := s.events ++ [.cmd w .errOp] } ∧
      exec (.cmdReserved w) s = .next t ∧ exec (.wrCmd w) s = .next t)

/-- R80: a buffer id not below NBUF gives ERR_BUF and nothing else, for each command; with P = 0, BUF is not examined: INIT, ARM and RELEASE
do what they do for BUF = 0, the event's word apart, and SEND is ERR_NULL. -/
def Obligations.BufferOperandChecks : Prop :=
  ∀ (s : State) (b : Byte),
    (s.params.nbuf ≤ b.toNat → ∀ i w, (i, w) ∈ [(Instr.init true b, Spec.word 1 true b),
        (.arm true b, Spec.word 2 true b), (.send true b, Spec.word 3 true b), (.release true b, Spec.word 4 true b)] →
      exec i s = .next { s with result := .errBuf, events := s.events ++ [.cmd w .errBuf] }) ∧
    (∀ i j n, (i, j, n) ∈ [(Instr.init false b, Instr.init false 0, 1), (.arm false b, .arm false 0, 2),
        (.release false b, .release false 0, 4)] →
      ∃ t, exec j s = .next t ∧ exec i s = .next { t with events := s.events ++ [.cmd (Spec.word n false b) t.result] }) ∧
    exec (.send false b) s = .next { s with result := .errNull, events := s.events ++ [.cmd (Spec.word 3 false b) .errNull] }

/-- R151: INIT. -/
def Obligations.InitResult : Prop :=
  ∀ (s : State) (p : Bool) (b : Byte), Spec.bufOk s p b →
    exec (.init p b) s = .next (
      if s.rxst = .deliver ∨ p = true ∧ s.owner b.toNat = .tx then
        { s with result := .errState, events := s.events ++ [.cmd (Spec.word 1 p b) .errState] }
      else
        { s with crcerr := 0, rxidx := 0, rxbuf := if p then b else 0, rxst := Spec.armed p, result := .ok,
                 events := s.events ++ [.cmd (Spec.word 1 p b) .ok] })

/-- R152: ARM; CRCERR is kept. -/
def Obligations.ArmResult : Prop :=
  ∀ (s : State) (p : Bool) (b : Byte), Spec.bufOk s p b →
    exec (.arm p b) s = .next (
      if s.rxst = .deliver ∨ p = true ∧ s.owner b.toNat = .tx then
        { s with result := .errState, events := s.events ++ [.cmd (Spec.word 2 p b) .errState] }
      else
        { s with rxidx := 0, rxbuf := if p then b else 0, rxst := Spec.armed p, result := .ok,
                 events := s.events ++ [.cmd (Spec.word 2 p b) .ok] })

/-- R160: RELEASE. -/
def Obligations.ReleaseResult : Prop :=
  ∀ (s : State) (p : Bool) (b : Byte), Spec.bufOk s p b →
    exec (.release p b) s = .next (
      if s.rxst ≠ .deliver ∨ p = true ∧ s.owner b.toNat = .tx then
        { s with result := .errState, events := s.events ++ [.cmd (Spec.word 4 p b) .errState] }
      else
        { s with rxidx := 0, rxbuf := if p then b else 0, rxst := Spec.armed p, result := .ok,
                 events := s.events ++ [.cmd (Spec.word 4 p b) .ok] })

/-- R153, R30: a SEND refused before its FCS store changes RESULT and the history only. -/
def Obligations.SendRefusedChangesOnlyResult : Prop :=
  ∀ (s : State) (b : Byte), b.toNat < s.params.nbuf →
    (s.txbusy = true ∨ s.owner b.toNat = .rx →
      exec (.send true b) s = .next { s with result := .errState, events := s.events ++ [.cmd (Spec.word 3 true b) .errState] }) ∧
    (s.txbusy = false → s.owner b.toNat ≠ .rx → 300 < Spec.lengthField s b →
      exec (.send true b) s = .next { s with result := .errLen, events := s.events ++ [.cmd (Spec.word 3 true b) .errLen] })

/-- R153, R53, R63: an accepted SEND: the FCS in the two bytes after the payload and no other BMEM byte changed, the encoded frame in TXOUT,
TXLEN its length, the TX engine started; the receive registers and everything else as before. -/
def Obligations.SendAcceptedEncodesFrame : Prop :=
  ∀ (s : State) (b : Byte), b.toNat < s.params.nbuf → s.txbusy = false → s.owner b.toNat ≠ .rx → Spec.lengthField s b ≤ 300 →
    (Spec.sent s b).length ≤ s.params.txCap →
    ∃ t, exec (.send true b) s = .next t ∧
      t = { s with txlen := (Spec.sent s b).length, txpos := 0, txwake := s.params.wakeupCount, txbuf := b, txbusy := true, result := .ok,
                   events := s.events ++ [.cmd (Spec.word 3 true b) .ok], bmem := t.bmem, txout := t.txout } ∧
      Spec.stored s t (Spec.at b (4 + Spec.lengthField s b)) (Spec.fcsBytes (Spec.message s b)) ∧
      (∀ i (h : i < (Spec.sent s b).length), t.txoutByte i = (Spec.sent s b)[i]) ∧
      ∀ i, (Spec.sent s b).length ≤ i → i < s.params.txCap → t.txoutByte i = s.txoutByte i

/-- R153, R101: a SEND whose frame does not fit TX_CAP: ERR_LEN, the FCS stays stored, TXOUT unspecified, nothing is sent. -/
def Obligations.SendTooLongForTxoutStoresFcsOnly : Prop :=
  ∀ (s : State) (b : Byte), b.toNat < s.params.nbuf → s.txbusy = false → s.owner b.toNat ≠ .rx → Spec.lengthField s b ≤ 300 →
    s.params.txCap < (Spec.sent s b).length →
    ∃ t, exec (.send true b) s = .next t ∧
      t = { s with result := .errLen, events := s.events ++ [.cmd (Spec.word 3 true b) .errLen], bmem := t.bmem, txout := t.txout,
                   txoutEpoch := t.txoutEpoch } ∧
      Spec.stored s t (Spec.at b (4 + Spec.lengthField s b)) (Spec.fcsBytes (Spec.message s b)) ∧
      t.txoutEpoch ≠ s.txoutEpoch ∧ ∀ i, t.txoutByte i = Config.txoutDraw t.txoutEpoch i

/-- R194: the result code is the first that applies: ERR_OP, ERR_NULL, ERR_BUF, ERR_STATE, ERR_LEN. -/
def Obligations.ErrorPriority : Prop :=
  ∀ (w : Word) (s : State), ∃ t, exec (.wrCmd w) s = .next t ∧ t.result =
    (if (w.toNat % 16 < 1 ∨ 4 < w.toNat % 16) ∨ w.toNat / 32 % 8 ≠ 0 ∨ w.toNat / 65536 ≠ 0 then .errOp
     else if w.toNat % 16 = 3 ∧ w.getLsbD 4 = false then .errNull
     else if w.getLsbD 4 = true ∧ s.params.nbuf ≤ w.toNat / 256 % 256 then .errBuf
     else if (w.toNat % 16 = 1 ∨ w.toNat % 16 = 2) ∧ s.rxst = .deliver then .errState
     else if w.toNat % 16 = 4 ∧ s.rxst ≠ .deliver then .errState
     else if w.toNat % 16 = 3 ∧ (s.txbusy = true ∨ s.owner (w.toNat / 256 % 256) = .rx) then .errState
     else if w.toNat % 16 ≠ 3 ∧ w.getLsbD 4 = true ∧ s.owner (w.toNat / 256 % 256) = .tx then .errState
     else if w.toNat % 16 = 3 ∧ (300 < Spec.lengthField s (BitVec.ofNat 8 (w.toNat / 256)) ∨
       s.params.txCap < (Spec.sent s (BitVec.ofNat 8 (w.toNat / 256))).length) then .errLen
     else .ok)

/-- R190, R191: a command that ends in an error changes RESULT and the history and nothing else, but for the ERR_LEN of an encode that does
not fit (LENGTH ≤ 300): there the two FCS bytes after the payload are written as well, no other BMEM byte changes, and TXOUT is unspecified. -/
def Obligations.CommandErrorsChangeNothingElse : Prop :=
  ∀ (w : Word) (s : State), ∃ t, exec (.wrCmd w) s = .next t ∧
    (t.result ≠ .ok → t.result ≠ .errLen → t = { s with result := t.result, events := s.events ++ [.cmd w t.result] }) ∧
    (t.result = .errLen → 300 < Spec.lengthField s (BitVec.ofNat 8 (w.toNat / 256)) →
      t = { s with result := .errLen, events := s.events ++ [.cmd w .errLen] }) ∧
    (t.result = .errLen → Spec.lengthField s (BitVec.ofNat 8 (w.toNat / 256)) ≤ 300 →
      t = { s with result := .errLen, events := s.events ++ [.cmd w .errLen], bmem := t.bmem, txout := t.txout,
                   txoutEpoch := t.txoutEpoch } ∧
      Spec.stored s t (Spec.at (BitVec.ofNat 8 (w.toNat / 256)) (4 + Spec.lengthField s (BitVec.ofNat 8 (w.toNat / 256))))
        (Spec.fcsBytes (Spec.message s (BitVec.ofNat 8 (w.toNat / 256)))))

/-! ### Registers and BMEM -/

/-- R161, R32: RD STATUS returns the fields of R32 and changes nothing else. -/
def Obligations.RdStatusReturnsFields : Prop :=
  ∀ s : State, ∃ v : Word, exec .rdStatus s = .next { s with returned := .register v } ∧
    v.toNat % 8 = (match s.rxst with | .idle => 0 | .awaitStart => 1 | .inFrame => 2 | .escape => 3 | .deliver => 4) ∧
    v.getLsbD 3 = s.txbusy ∧
    v.toNat / 16 % 8 = (match s.result with | .ok => 0 | .errNull => 1 | .errLen => 2 | .errState => 3 | .errBuf => 4 | .errOp => 5) ∧
    v.getLsbD 7 = decide (s.rxst ≠ .idle) ∧ v.toNat / 256 % 256 = s.rxbuf.toNat ∧ v.toNat / 65536 % 256 = s.txbuf.toNat ∧
    v.toNat / 16777216 = 0

/-- R162, R33 and R163, R34: RXCNT shows RXIDX in bits [15:0] and 0 above, CRCERR shows the counter; neither read changes anything else. -/
def Obligations.RdCountersReturnRegisters : Prop :=
  ∀ s : State, ∃ v c : Word, exec .rdRxcnt s = .next { s with returned := .register v } ∧ v.toNat = s.rxidx.toNat ∧
    exec .rdCrcerr s = .next { s with returned := .register c } ∧ c = s.crcerr

/-- R164, R35, R36: CMD and the reserved registers read 0; a write to any register but CMD changes nothing at all. -/
def Obligations.OtherRegisterAccesses : Prop :=
  ∀ (s : State) (k : Byte),
    (3 ≤ k.toNat → exec (.rdWrOther (.read k)) s = .next { s with returned := .register 0 }) ∧
    ∀ v : Word, k ≠ 3 → exec (.rdWrOther (.write k v)) s = .next s

/-- R165, R67: LD returns the byte BMEM holds, whoever owns it; outside BMEM it returns no value and raises FAULT_RANGE. -/
def Obligations.LoadReturnsByteOrFaultsRange : Prop :=
  ∀ (s : State) (a : Nat),
    (a < s.params.nbuf * 306 → exec (.ld a) s = .next { s with returned := .byte (s.memByte a) }) ∧
    (s.params.nbuf * 306 ≤ a → exec (.ld a) s = .next { s with returned := .nothing, faults := { s.faults with range := true } })

/-- R166, R66, R67: ST writes its byte and no other, and raises FAULT_OWNERSHIP when the block owns the buffer; outside BMEM it writes nothing
and raises FAULT_RANGE. -/
def Obligations.StoreWritesByteAndRecordsFaults : Prop :=
  ∀ (s : State) (a : Nat) (v : Byte),
    (a < s.params.nbuf * 306 → ∃ t, exec (.st a v) s = .next t ∧ Spec.stored s t a [v] ∧
      t = { s with bmem := t.bmem, faults := { s.faults with ownership := s.faults.ownership || decide (s.owner (a / 306) ≠ .client) } }) ∧
    (s.params.nbuf * 306 ≤ a → exec (.st a v) s = .next { s with faults := { s.faults with range := true } })

/-- R38: the owner of a buffer in a state of the invariant: RX while it is armed, TX while it is being sent, else the CLIENT. -/
def Obligations.OwnerOfBuffer : Prop :=
  ∀ (s : State) (b : Byte), s.Inv →
    (s.owner b.toNat = .rx ↔ (s.rxst = .awaitStart ∨ s.rxst = .inFrame ∨ s.rxst = .escape) ∧ s.rxbuf = b) ∧
    (s.owner b.toNat = .tx ↔ s.txbusy = true ∧ s.txbuf = b)

/-! ### Wire bytes, symbols and the decoder -/

/-- R70, R71, R104: a byte takes the row of that byte in the decoder's state. In the model an operation that offers one byte does so whichever
row it is named after, and a two-byte symbol takes the row of its ESC and puts its second byte at the head of LINE_RX's bytes, offered in
LINE_RX's next turn. What an operation named after another row or another state does is the model's own reading, and a symbol as one
operation with a queued turn its own choice, not the spec's (notes/assumptions/10.md and 11.md). -/
def Obligations.WireBytesTakeTheirRow : Prop :=
  ∀ (s : State), s.rxst ≠ .deliver →
    (∀ d i e, (i, e) ∈ Spec.offers d → ∃ r t, Spec.row s e = some r ∧ exec i s = .next t ∧ exec r s = .next t) ∧
    ∀ i e, (i, e) ∈ Spec.symbolPairs → ∃ r t, Spec.row s 0xDB = some r ∧ exec i s = .next t ∧
      exec r { s with line := e :: s.line, turns := .rxHeld :: s.turns } = .next t

/-- R71, R112, R113: XEND and XESC in a frame, two steps each: the first leaves ESCAPE with the second byte on the line, the second stores the
data byte 0xC0 or 0xDB (at RX_CAP it is parsed and not stored, R103). A symbol as one operation, its second byte put at the head of
LINE_RX's bytes and offered in LINE_RX's next turn, is the model's own choice, not the spec's (notes/assumptions/11.md). -/
def Obligations.TwoByteSymbolsStoreTheirDataByte : Prop :=
  ∀ (s : State), s.rxst = .inFrame →
    ∀ i d e, (i, d, e) ∈ [(Instr.xend, (0xC0 : Byte), (0xDC : Byte)), (.xesc, 0xDB, 0xDD)] →
      ∃ t u, exec i s = .next t ∧
        t = { s with rxst := .escape, events := s.events ++ [.rxIn 0xDB], line := e :: s.line, turns := .rxHeld :: s.turns } ∧
        step t = .next u ∧
        (s.rxidx.toNat < 304 → Spec.stored s u (Spec.at s.rxbuf (2 + s.rxidx.toNat)) [d] ∧
          u = { s with rxidx := s.rxidx + 1, events := s.events ++ [.rxIn 0xDB, .rxIn e], bmem := u.bmem }) ∧
        (304 ≤ s.rxidx.toNat → u = { s with events := s.events ++ [.rxIn 0xDB, .rxIn e] })

/-- R105 and R109: in IDLE every byte is dropped, and in a frame with nothing stored an END is absorbed: nothing but the history changes. -/
def Obligations.DroppedBytesChangeNothing : Prop :=
  (∀ (s : State) (d : Byte), s.rxst = .idle → exec (.rxIdle d) s = .next (Spec.took s d)) ∧
  ∀ s : State, s.rxst = .inFrame → s.rxidx = 0 → exec .rxEndInFrameEmpty s = .next (Spec.took s 0xC0)

/-- R106 and R110: in AWAIT_START, END opens a frame with RXIDX 0; in a frame, ESC leads to ESCAPE with RXIDX kept. -/
def Obligations.EndOpensFrameAndEscEntersEscape : Prop :=
  (∀ s : State, s.rxst = .awaitStart → exec .rxEndAwaitStart s = .next { Spec.took s 0xC0 with rxidx := 0, rxst := .inFrame }) ∧
  ∀ s : State, s.rxst = .inFrame → exec .rxEscInFrame s = .next { Spec.took s 0xDB with rxst := .escape }

/-- R107: in AWAIT_START, every byte but END is dropped. So a run of such bytes between frames does no harm, which R117 derives; here the run
is one turn of LINE_RX for each byte, and how the model holds the turns and LINE_RX's bytes is its own choice (notes/assumptions/1.md and
3.md). -/
def Obligations.AwaitStartDropsUntilEnd : Prop :=
  (∀ (s : State) (d : Byte), s.rxst = .awaitStart → d ≠ 0xC0 → exec (.rxOtherAwaitStart d) s = .next (Spec.took s d)) ∧
  ∀ (s : State) (gap : List Byte) (rest : List Turn), s.rxst = .awaitStart → s.line = [] → (0xC0 : Byte) ∉ gap →
    s.turns = gap.map .rx ++ rest →
    Host.Core.run Sys2Proof.core gap.length s = .next { s with turns := rest, events := s.events ++ gap.map .rxIn }

/-- R103: STORE writes one byte at span(RXBUF) + RXIDX and counts it; at RX_CAP it changes nothing. -/
def Obligations.StoreSaturatesAtCapacity : Prop :=
  ∀ (s : State) (v : Byte),
    (s.rxidx.toNat < 304 → ∃ t, exec (.store v) s = .next t ∧ Spec.stored s t (Spec.at s.rxbuf (2 + s.rxidx.toNat)) [v] ∧
      t = { s with rxidx := s.rxidx + 1, bmem := t.bmem } ∧ t.rxidx.toNat = s.rxidx.toNat + 1) ∧
    (304 ≤ s.rxidx.toNat → exec (.store v) s = .next s)

/-- R111, R112, R113: a data byte in a frame and a completed escape are STORE of the data byte, and leave IN_FRAME. -/
def Obligations.DataAndEscapesAreStored : Prop :=
  ∀ s : State,
    (∀ d : Byte, s.rxst = .inFrame → d ≠ 0xC0 → d ≠ 0xDB →
      ∃ t, exec (.rxDataInFrame d) s = .next t ∧ exec (.store d) (Spec.took s d) = .next t) ∧
    (s.rxst = .escape →
      (∃ t, exec .rxEscEndEscape s = .next { t with rxst := .inFrame } ∧ exec (.store 0xC0) (Spec.took s 0xDC) = .next t) ∧
      ∃ t, exec .rxEscEscEscape s = .next { t with rxst := .inFrame } ∧ exec (.store 0xDB) (Spec.took s 0xDD) = .next t)

/-- R114: any other byte after ESC, END and ESC included, aborts the frame. -/
def Obligations.InvalidEscapeAborts : Prop :=
  ∀ (s : State) (d : Byte), s.rxst = .escape → d ≠ 0xDC → d ≠ 0xDD →
    exec (.rxOtherEscape d) s =
      .next { s with events := s.events ++ [.rxIn d, .discard .abort s.rxidx.toNat], rxidx := 0, rxst := .awaitStart }

/-- R108: END with bytes stored is FRAME_COMPLETE(RXIDX), in the same step. -/
def Obligations.EndClosesFrame : Prop :=
  ∀ s : State, s.rxst = .inFrame → s.rxidx ≠ 0 →
    ∃ t, exec .rxEndInFrameStored s = .next t ∧ exec (.frameComplete s.rxidx.toNat) (Spec.took s 0xC0) = .next t ∧
      (t.rxst = .awaitStart ∨ t.rxst = .deliver) ∧ t.rxidx = 0

/-- R156: FRAME_COMPLETE sets RXIDX to 0 and takes one of its three cases, by length and by the check over the stored span. -/
def Obligations.FrameCompleteDispatches : Prop :=
  ∀ (s : State) (len : Nat), ∃ t, exec (.frameComplete len) s = .next t ∧
    exec (if len < 4 then .frameCompleteShort len
      else if crc16 (Spec.bytesFrom s (Spec.at s.rxbuf 2) len) len 0xFFFF = 0xF0B8 then .frameCompleteDeliver len
      else .frameCompleteCrcFail len) { s with rxidx := 0 } = .next t

/-- R157 and R158: a short frame is discarded and nothing is counted; a failed check counts once, modulo 2^32. The same buffer stays armed. -/
def Obligations.DiscardedFramesRearmTheSameBuffer : Prop :=
  ∀ (s : State) (len : Nat),
    exec (.frameCompleteShort len) s = .next { s with events := s.events ++ [.discard .short len], rxst := .awaitStart } ∧
    ∃ t, exec (.frameCompleteCrcFail len) s = .next t ∧
      t = { s with crcerr := t.crcerr, events := s.events ++ [.discard .crc len], rxst := .awaitStart } ∧
      t.crcerr.toNat = (s.crcerr.toNat + 1) % 4294967296

/-- R159: delivery writes LENGTH, little-endian, and no other byte, and raises MSG_READY. -/
def Obligations.DeliveryWritesLengthAndRaisesMsgReady : Prop :=
  ∀ (s : State) (len : Nat), 4 ≤ len → len ≤ 304 → ∃ t, exec (.frameCompleteDeliver len) s = .next t ∧
    t = { s with rxst := .deliver, events := s.events ++ [.msgReady s.rxbuf (len - 4)], bmem := t.bmem } ∧ t.msgReady = true ∧
    Spec.stored s t (Spec.at s.rxbuf 0) [BitVec.ofNat 8 (len - 4), BitVec.ofNat 8 ((len - 4) / 256)]

/-- The round trip that spec/40_slip_codec.md section 4 derives: what the encoder makes of a byte list, the decoder stores again: from
AWAIT_START, or from IN_FRAME with nothing stored, the bytes of the encoded list, offered one per step, leave the list (its first RX_CAP
bytes) in the span of the armed buffer and no other BMEM byte changed, and the closing END is FRAME_COMPLETE of their number; an empty list
leaves IN_FRAME with nothing stored. -/
def Obligations.DecoderUndoesEncoder : Prop :=
  ∀ (s : State) (src : List Byte) (rest : List Turn), s.rxst = .awaitStart ∨ s.rxst = .inFrame ∧ s.rxidx = 0 → s.line = [] →
    s.turns = (Spec.onWire src).map .rx ++ rest →
    (src = [] → Host.Core.run Sys2Proof.core 2 s =
      .next { s with rxst := .inFrame, rxidx := 0, events := s.events ++ [.rxIn 0xC0, .rxIn 0xC0], turns := rest }) ∧
    (src ≠ [] → ∃ u, Host.Core.run Sys2Proof.core ((Spec.onWire src).length - 1) s = .next u ∧
      u = { s with rxst := .inFrame, rxidx := u.rxidx, bmem := u.bmem, turns := .rx 0xC0 :: rest,
                   events := s.events ++ ([0xC0] ++ src.flatMap Spec.esc).map .rxIn } ∧
      u.rxidx.toNat = min src.length 304 ∧ Spec.stored s u (Spec.at s.rxbuf 2) (src.take 304) ∧
      step u = exec (.frameComplete (min src.length 304)) (Spec.took { u with turns := rest } 0xC0))

/-- A message of at most 300 payload bytes, framed with its FCS as R73 and R75 say and offered byte by byte, is delivered: DELIVER, LENGTH, the
span in the armed buffer, one MsgReady, CRCERR as before (R116, R132, R159; §8 items 1 and 3 of the source). -/
def Obligations.FramedMessageIsDelivered : Prop :=
  ∀ (s : State) (sap mid : Byte) (payload : List Byte) (rest : List Turn),
    s.rxst = .awaitStart ∨ s.rxst = .inFrame ∧ s.rxidx = 0 → s.line = [] → payload.length ≤ 300 →
    s.turns = (Spec.onWire (sap :: mid :: payload ++ Spec.fcsBytes (sap :: mid :: payload))).map .rx ++ rest →
    ∃ u, Host.Core.run Sys2Proof.core (Spec.onWire (sap :: mid :: payload ++ Spec.fcsBytes (sap :: mid :: payload))).length s = .next u ∧
      u = { s with rxst := .deliver, rxidx := 0, bmem := u.bmem, turns := rest,
                   events := s.events ++ (Spec.onWire (sap :: mid :: payload ++ Spec.fcsBytes (sap :: mid :: payload))).map .rxIn
                     ++ [.msgReady s.rxbuf payload.length] } ∧
      Spec.stored s u (Spec.at s.rxbuf 0) ([BitVec.ofNat 8 payload.length, BitVec.ofNat 8 (payload.length / 256)] ++
        (sap :: mid :: payload ++ Spec.fcsBytes (sap :: mid :: payload)))

/-! ### CRC and encoder -/

/-- CRC16 and CRC_CHECK, with the inner loop that the spec marks as general knowledge (spec/41_crc16.md; notes/assumptions/20.md): CRC16
returns init for n = 0, and each further byte is XORed into the register's low bits and then shifted out in eight steps; CRC_CHECK is true
exactly when the complement of CRC16 is 0x0F47, equivalently when CRC16 is 0xF0B8; both change nothing but the returned value. -/
def Obligations.CrcFunctions : Prop :=
  ∀ (s : State) (data : List Byte) (n : Nat) (seed : U16),
    ∃ r good, exec (.crc16 data n seed) s = .next { s with returned := .crc r } ∧ (n = 0 → r = seed) ∧
      exec (.crcCheck data n seed) s = .next { s with returned := .check good } ∧ (good = true ↔ ~~~ r = 0x0F47) ∧ (good = true ↔ r = 0xF0B8) ∧
      ∀ h : n < data.length, ∃ r', exec (.crc16 data (n + 1) seed) s = .next { s with returned := .crc r' } ∧
        r' = (List.range 8).foldl (fun q _ => if q.getLsbD 0 then (q >>> 1) ^^^ 0x8408 else q >>> 1) (r ^^^ (data[n]).setWidth 16)

/-- The residue property that spec/41_crc16.md derives: every byte list followed by its FCS leaves the residue 0xF0B8, so its check is true. -/
def Obligations.CrcResidue : Prop :=
  ∀ (p : List Byte),
    crc16 (p ++ Spec.fcsBytes p) (p.length + 2) 0xFFFF = 0xF0B8 ∧ crcCheck (p ++ Spec.fcsBytes p) (p.length + 2) 0xFFFF = true

/-- SLIP_ENCODE returns Ok(length) and writes the output from TXOUT[0] when it is not longer than cap, LenErr when it is, and then TXOUT is
unspecified. The bytes of TXOUT past the output stay; TXOUT has the indices below TX_CAP (R55). R101 gives the TXOUT writes only for SEND's
call, with cap = TX_CAP. That the operation run alone makes them for every cap, and that TXOUT keeps the first TX_CAP bytes of a longer
output, is the model's own choice, not the spec's (notes/assumptions/12.md and 22.md). -/
def Obligations.SlipEncodeWritesTxout : Prop :=
  ∀ (s : State) (src : List Byte) (cap : Nat),
    ((Spec.onWire src).length ≤ cap → ∃ t, exec (.slipEncode src cap) s = .next t ∧
      t = { s with txout := t.txout, returned := .encoded (some (Spec.onWire src).length) } ∧
      (∀ i (h : i < (Spec.onWire src).length), i < s.params.txCap → t.txoutByte i = (Spec.onWire src)[i]) ∧
      ∀ i, (Spec.onWire src).length ≤ i → i < s.params.txCap → t.txoutByte i = s.txoutByte i) ∧
    (cap < (Spec.onWire src).length → ∃ t, exec (.slipEncode src cap) s = .next t ∧
      t = { s with txout := t.txout, txoutEpoch := t.txoutEpoch, returned := .encoded none } ∧
      t.txoutEpoch ≠ s.txoutEpoch ∧ ∀ i, t.txoutByte i = Config.txoutDraw t.txoutEpoch i)

/-- What spec/40_slip_codec.md section 1 derives of the length of the encoder's output, its bounds, and the single-byte case. -/
def Obligations.EncodedLength : Prop :=
  ∀ src : List Byte,
    (frameBytes src).length = 2 + src.length + src.countP (fun d => d == 0xC0 || d == 0xDB) ∧
    2 + src.length ≤ (frameBytes src).length ∧ (frameBytes src).length ≤ 2 + 2 * src.length ∧
    ∀ b : Byte, (frameBytes [b]).length = if b = 0xC0 ∨ b = 0xDB then 4 else 3

/-! ### Transmission -/

/-- R154, R155: TXACK emits a wake-up character while TXWAKE > 0, then TXOUT[TXPOS]; the last byte completes the SEND in the same step; while
TXBUSY = 0 the step is not enabled, and that the operation then changes nothing is the model's reading (notes/assumptions/17.md). -/
def Obligations.TxackEmitsOneByte : Prop :=
  ∀ s : State,
    (s.txbusy = true → 0 < s.txwake →
      exec .txack s = .next { s with events := s.events ++ [.txOut s.params.wakeupByte], txwake := s.txwake - 1 }) ∧
    (s.txbusy = true → s.txwake = 0 → s.txpos + 1 ≠ s.txlen →
      exec .txack s = .next { s with events := s.events ++ [.txOut (s.txoutByte s.txpos)], txpos := s.txpos + 1 }) ∧
    (s.txbusy = true → s.txwake = 0 → s.txpos + 1 = s.txlen →
      exec .txack s = .next { s with events := s.events ++ [.txOut (s.txoutByte s.txpos), .txDone s.txbuf], txpos := s.txpos + 1,
                                     txbusy := false, txbuf := 0 }) ∧
    (s.txbusy = false → exec .txack s = .next s)

/-- R154, R231: a SEND in progress takes exactly TXWAKE + (TXLEN − TXPOS) TXACK steps: it emits the wake-up characters it still has, then
TXOUT[TXPOS .. TXLEN), then TxDone, and is busy before each of these steps; nothing else changes. The same steps are TXACK* (R85), which
queues itself as LINE_TX's next turn by the model's own choice (notes/assumptions/13.md). -/
def Obligations.SendEmitsExactlyItsBytes : Prop :=
  ∀ (s : State) (rest : List Turn), s.txbusy = true → s.txpos < s.txlen →
    s.turns = List.replicate (s.txwake + (s.txlen - s.txpos)) .txAccept ++ rest ∨ s.turns = .pseudo .txackAll :: rest →
    Host.Core.run Sys2Proof.core (s.txwake + (s.txlen - s.txpos)) s =
      .next { s with txbusy := false, txbuf := 0, txwake := 0, txpos := s.txlen, turns := rest,
                     events := s.events ++ List.replicate s.txwake (.txOut s.params.wakeupByte)
                       ++ (List.range (s.txlen - s.txpos)).map (fun i => .txOut (s.txoutByte (s.txpos + i))) ++ [.txDone s.txbuf] } ∧
    ∀ j, j < s.txwake + (s.txlen - s.txpos) → ∃ v, Host.Core.run Sys2Proof.core j s = .next v ∧ v.txbusy = true

/-! ### Pseudo-instructions -/

/-- R84: PAUSE is ARM none, and SETLEN, FILL and MSG are their separate ST steps. That the first is taken now and the others stand as the
CLIENT's next turns is the model's own choice, not the spec's (notes/assumptions/13.md). -/
def Obligations.PauseAndStoresExpand : Prop :=
  ∀ s : State,
    (∃ t, exec .pause s = .next t ∧ exec (.arm false 0) s = .next t) ∧
    (∀ b (n : U16), ∃ t, exec (.setlen b n) s = .next t ∧
      exec (.st (Spec.at b 0) (n.setWidth 8)) { s with turns := .memWrite (Spec.at b 1) ((n >>> 8).setWidth 8) :: s.turns } = .next t) ∧
    (∀ b off, exec (.fill b off []) s = .next s) ∧
    (∀ b off d data, ∃ t, exec (.fill b off (d :: data)) s = .next t ∧
      exec (.st (Spec.at b off) d)
        { s with turns := data.zipIdx.map (fun x => .memWrite (Spec.at b (off + 1 + x.2)) x.1) ++ s.turns } = .next t) ∧
    ∀ b sap mid payload, ∃ t, exec (.msg b sap mid payload) s = .next t ∧
      exec (.st (Spec.at b 0) (BitVec.ofNat 8 payload.length))
        { s with turns := .memWrite (Spec.at b 1) (BitVec.ofNat 8 (payload.length / 256)) :: .memWrite (Spec.at b 2) sap ::
            .memWrite (Spec.at b 3) mid :: payload.zipIdx.map (fun x => .memWrite (Spec.at b (4 + x.2)) x.1) ++ s.turns } = .next t

/-- R84, R223: MSG on a buffer the CLIENT owns, run to its end, leaves LENGTH, SAP, message id and payload in the buffer, no other BMEM byte
changed and no fault raised. This is the run in which no other agent steps between MSG's stores, as the model queues them by its own choice
(notes/assumptions/13.md); it says nothing of other interleavings. -/
def Obligations.MsgWritesTheMessage : Prop :=
  ∀ (s : State) (b sap mid : Byte) (payload : List Byte) (rest : List Turn),
    b.toNat < s.params.nbuf → s.owner b.toNat = .client → payload.length ≤ 300 → s.turns = .pseudo (.msg b sap mid payload) :: rest →
    ∃ u, Host.Core.run Sys2Proof.core (4 + payload.length) s = .next u ∧ u = { s with bmem := u.bmem, turns := rest } ∧
      Spec.stored s u (Spec.at b 0)
        ([BitVec.ofNat 8 payload.length, BitVec.ofNat 8 (payload.length / 256), sap, mid] ++ payload) ∧
      Spec.lengthField u b = payload.length

/-- R84, R104: RXS offers its bytes one per step after those LINE_RX already holds: the oldest byte takes its row now, the others are LINE_RX's
next turns; in DELIVER they are kept. RXS of nothing is nothing. That all bytes join LINE_RX's at once and its next turns are queued
is the model's own choice, not the spec's (notes/assumptions/3.md and 13.md). -/
def Obligations.RxsOffersItsBytesInOrder : Prop :=
  (∀ s : State, exec (.rxs []) s = .next s) ∧
  ∀ (s : State) (d : Byte) (ds : List Byte) (h : Byte) (q : List Byte), s.line ++ d :: ds = h :: q →
    (∀ r, Spec.row s h = some r → ∃ t, exec (.rxs (d :: ds)) s = .next t ∧
      exec r { s with line := q, turns := List.replicate ds.length .rxHeld ++ s.turns } = .next t) ∧
    (s.rxst = .deliver → exec (.rxs (d :: ds)) s = .next { s with line := h :: q, turns := List.replicate ds.length .rxHeld ++ s.turns })

/-- R85 has TXACK* repeat TXACK until TXBUSY = 0. In the model it is one TXACK, followed by another TXACK* as LINE_TX's next turn while
TXBUSY = 1, and with TXBUSY = 0 it is nothing: the model's own choice and reading, not the spec's (notes/assumptions/13.md and 17.md). -/
def Obligations.TxackAllRepeatsTxack : Prop :=
  ∀ s : State,
    (s.txbusy = false → exec .txackAll s = .next s) ∧
    (s.txbusy = true → ∃ t, exec .txack s = .next t ∧
      exec .txackAll s = .next (if t.txbusy then { t with turns := .pseudo .txackAll :: t.turns } else t))

/-! ### Whole-machine rules -/

/-- R29, R66, R67, R193: no step removes a fault but power-on, which empties FAULTS; only a CLIENT's step adds one. -/
def Obligations.FaultsAreStickyAndTheClients : Prop :=
  ∀ s t : State, step s = .next t → s.turns.head? ≠ some .powerOn →
    (s.faults.ownership = true → t.faults.ownership = true) ∧ (s.faults.range = true → t.faults.range = true) ∧
    (t.faults ≠ s.faults → ∃ turn, s.turns.head? = some turn ∧ turn.agent = .client)

/-- R40: the event history only grows, at its end; only power-on empties it. -/
def Obligations.EventHistoryIsAppendOnly : Prop :=
  ∀ s t : State, step s = .next t → s.turns.head? ≠ some .powerOn → ∃ l, t.events = s.events ++ l

/-- R24: CRCERR is written by power-on, by an INIT that succeeds (to 0), and by a frame whose check fails (plus 1, with its Discard event). -/
def Obligations.OnlyInitAndCrcFailureWriteCrcerr : Prop :=
  ∀ s t : State, step s = .next t → t.crcerr ≠ s.crcerr →
    s.turns.head? = some .powerOn ∨
    (∃ w, t.events = s.events ++ [.cmd w .ok] ∧ w.toNat % 16 = 1 ∧ t.crcerr = 0) ∨
    (∃ n, t.events = s.events ++ [.rxIn 0xC0, .discard .crc n] ∧ t.crcerr = s.crcerr + 1)

/-- R196, R197: MSG_READY is cleared only by a RELEASE that succeeds, and by power-on. -/
def Obligations.OnlyReleaseEndsDelivery : Prop :=
  ∀ s t : State, step s = .next t → s.msgReady = true → t.msgReady = false →
    s.turns.head? = some .powerOn ∨ ∃ w, t.events = s.events ++ [.cmd w .ok] ∧ w.toNat % 16 = 4

/-- IDLE is left only by INIT or ARM with a buffer (R105, R221). R105 names RELEASE with a buffer as well, but R160 answers RELEASE with
ERR_STATE whenever RXST is not DELIVER, so RELEASE cannot leave IDLE. -/
def Obligations.OnlyArmingLeavesIdle : Prop :=
  ∀ s t : State, step s = .next t → s.rxst = .idle → t.rxst ≠ .idle →
    ∃ w, t.events = s.events ++ [.cmd w .ok] ∧ (w.toNat % 16 = 1 ∨ w.toNat % 16 = 2) ∧ w.getLsbD 4 = true ∧ t.rxst = .awaitStart

/-- R167: a step of LINE_RX leaves the TX engine, RESULT and FAULTS alone; a step of LINE_TX leaves the RX engine, BMEM, CRCERR, RESULT and
FAULTS alone. -/
def Obligations.EnginesAreIndependent : Prop :=
  ∀ (s t : State) (turn : Turn), step s = .next t → s.turns.head? = some turn →
    (turn.agent = .lineRx → t.txbusy = s.txbusy ∧ t.txbuf = s.txbuf ∧ t.txwake = s.txwake ∧ t.txout = s.txout ∧ t.txoutEpoch = s.txoutEpoch ∧
      t.txlen = s.txlen ∧ t.txpos = s.txpos ∧ t.result = s.result ∧ t.faults = s.faults ∧
      ∀ a, (a < Spec.at s.rxbuf 0 ∨ Spec.at s.rxbuf 306 ≤ a) → t.memByte a = s.memByte a) ∧
    (turn.agent = .lineTx → t.rxst = s.rxst ∧ t.rxbuf = s.rxbuf ∧ t.rxidx = s.rxidx ∧ t.crcerr = s.crcerr ∧ t.line = s.line ∧
      t.result = s.result ∧ t.faults = s.faults ∧ ∀ a, t.memByte a = s.memByte a)

/-- R65: a SEND in progress emits the bytes it encoded at acceptance: no CLIENT or LINE_RX step changes a TXOUT byte, TXLEN, TXPOS or TXWAKE. -/
def Obligations.SendSnapshotIsStable : Prop :=
  ∀ (s t : State) (turn : Turn), step s = .next t → s.txbusy = true → s.turns.head? = some turn →
    turn.agent = .client ∨ turn.agent = .lineRx →
    t.txbusy = true ∧ t.txbuf = s.txbuf ∧ t.txlen = s.txlen ∧ t.txpos = s.txpos ∧ t.txwake = s.txwake ∧
      ∀ i, t.txoutByte i = s.txoutByte i
end

