-- ==== Sys2Proof/Laws/Codec.lean ====
section
/-! SUPPORT. Laws/Codec.lean: the encoder's output and the CRC register, in the shapes proofs use (spec/40_slip_codec.md, spec/41_crc16.md). -/

namespace Sys2Proof.Machine

@[simp] theorem rxCap_eq : rxCap = 304 := rfl
@[simp] theorem bufSize_eq : bufSize = 306 := rfl
@[simp] theorem minFrame_eq : minFrame = 4 := rfl
@[simp] theorem payloadCap_eq : payloadCap = 300 := rfl
@[simp] theorem hdrSize_eq : hdrSize = 2 := rfl
@[simp] theorem fcsSize_eq : fcsSize = 2 := rfl
@[simp] theorem lengthSize_eq : lengthSize = 2 := rfl

theorem base_eq (b : Byte) : base b = b.toNat * 306 := rfl
theorem span_eq (b : Byte) : span b = b.toNat * 306 + 2 := rfl

/-- esc(d), case by case (R100). -/
theorem escByte_cases (d : Byte) :
    (d = 0xC0 ∧ escByte d = [0xDB, 0xDC]) ∨ (d = 0xDB ∧ escByte d = [0xDB, 0xDD]) ∨ (d ≠ 0xC0 ∧ d ≠ 0xDB ∧ escByte d = [d]) := by
  by_cases h : d = 0xC0
  · subst h; exact .inl ⟨rfl, rfl⟩
  · by_cases g : d = 0xDB
    · subst g; exact .inr (.inl ⟨rfl, rfl⟩)
    · refine .inr (.inr ⟨h, g, ?_⟩)
      rw [escByte, if_neg (by simpa [wireEND] using h), if_neg (by simpa [wireESC] using g)]

theorem escBytes_eq_flatMap (src : List Byte) : escBytes src = src.flatMap escByte := by
  induction src with
  | nil => rfl
  | cons d ds ih => simp [escBytes, ih]

theorem frameBytes_eq (src : List Byte) : frameBytes src = [0xC0] ++ src.flatMap escByte ++ [0xC0] := by
  simp [frameBytes, escBytes_eq_flatMap, wireEND]

theorem frameBytes_length (src : List Byte) : (frameBytes src).length = 2 + (escBytes src).length := by
  simp [frameBytes]; omega

/-- An encoder's output has both END markers (R102). -/
theorem two_le_frameBytes_length (src : List Byte) : 2 ≤ (frameBytes src).length := by
  rw [frameBytes_length]; omega

/-- SLIP_ENCODE's two answers (R101). -/
theorem slipResult_cases (src : List Byte) (cap : Nat) :
    (slipResult src cap = some (frameBytes src).length ∧ (frameBytes src).length ≤ cap) ∨
      (slipResult src cap = none ∧ cap < (frameBytes src).length) := by
  by_cases h : cap < (frameBytes src).length
  · exact .inr ⟨by simp [slipResult, h], h⟩
  · exact .inl ⟨by simp [slipResult, h], by omega⟩

@[simp] theorem crcList_nil (r : U16) : crcList r [] = r := rfl
@[simp] theorem crcList_cons (r : U16) (d : Byte) (ds : List Byte) : crcList r (d :: ds) = crcList (crcByte r d) ds := rfl

theorem crcList_append (r : U16) (xs ys : List Byte) : crcList r (xs ++ ys) = crcList (crcList r xs) ys := by
  induction xs generalizing r with
  | nil => rfl
  | cons d ds ih => exact ih (crcByte r d)

theorem crc16_length (data : List Byte) (seed : U16) : crc16 data data.length seed = crcList seed data := by
  simp [crc16]

@[simp] theorem crc16_zero (data : List Byte) (seed : U16) : crc16 data 0 seed = seed := rfl

theorem crc16_succ (data : List Byte) (n : Nat) (seed : U16) (h : n < data.length) :
    crc16 data (n + 1) seed = crcByte (crc16 data n seed) data[n] := by
  rw [crc16, crc16, List.take_add_one, List.getElem?_eq_getElem h, crcList_append]
  rfl

/-- One bit of the CRC is linear (R130). -/
theorem crcBit_xor (a b : U16) : crcBit (a ^^^ b) = crcBit a ^^^ crcBit b := by
  have h : (a ^^^ b) >>> 1 = a >>> 1 ^^^ b >>> 1 := BitVec.eq_of_getLsbD_eq fun i hi => by simp
  simp only [crcBit, BitVec.getLsbD_xor, h]
  cases a.getLsbD 0 <;> cases b.getLsbD 0
  · simp
  · simp [BitVec.xor_assoc]
  · simp only [Bool.xor_false, if_true, Bool.false_eq_true, if_false]; ac_rfl
  · simp only [Bool.xor_self, if_true, Bool.false_eq_true, if_false]
    rw [show a >>> 1 ^^^ crcPoly ^^^ (b >>> 1 ^^^ crcPoly) = a >>> 1 ^^^ b >>> 1 ^^^ (crcPoly ^^^ crcPoly) by ac_rfl]; simp

@[simp] theorem le16_length (v : U16) : (le16 v).length = 2 := rfl

end Sys2Proof.Machine
end

