-- ==== Sys2Proof/Laws/Encoding.lean ====
section
/-! SUPPORT. Laws/Encoding.lean: the fields of a command word and the word of its fields (rules R77 to R79, R83 of spec/30_encoding.md). -/

namespace Sys2Proof.Machine

@[simp] theorem cmdOp_commandWord (op : BitVec 4) (p : Bool) (b : Byte) : cmdOp (commandWord op p b) = op := by
  refine BitVec.eq_of_getLsbD_eq fun i hi => ?_
  interval_cases i <;> simp [cmdOp, commandWord]

@[simp] theorem cmdP_commandWord (op : BitVec 4) (p : Bool) (b : Byte) : cmdP (commandWord op p b) = p := by
  simp [cmdP, commandWord]

@[simp] theorem cmdBuf_commandWord (op : BitVec 4) (p : Bool) (b : Byte) : cmdBuf (commandWord op p b) = b := by
  refine BitVec.eq_of_getLsbD_eq fun i hi => ?_
  interval_cases i <;> simp [cmdBuf, commandWord]

theorem commandWord_bits7to5 (op : BitVec 4) (p : Bool) (b : Byte) : (commandWord op p b).extractLsb' 5 3 = 0 := by
  refine BitVec.eq_of_getLsbD_eq fun i hi => ?_
  interval_cases i <;> simp [commandWord]

theorem commandWord_bits31to16 (op : BitVec 4) (p : Bool) (b : Byte) : (commandWord op p b).extractLsb' 16 16 = 0 := by
  refine BitVec.eq_of_getLsbD_eq fun i hi => ?_
  interval_cases i <;> simp [commandWord]

/-- A word whose reserved bits are 0 is the word of its fields. -/
theorem commandWord_of_fields (w : Word) (h1 : w.extractLsb' 5 3 = 0) (h2 : w.extractLsb' 16 16 = 0) :
    commandWord (cmdOp w) (cmdP w) (cmdBuf w) = w := by
  have g1 := fun j => congrArg (BitVec.getLsbD · j) h1
  have g2 := fun j => congrArg (BitVec.getLsbD · j) h2
  simp only [BitVec.getLsbD_extractLsb'] at g1 g2
  refine BitVec.eq_of_getLsbD_eq fun i hi => ?_
  rcases Nat.lt_or_ge i 5 with h | h
  · interval_cases i <;> simp [commandWord, cmdOp, cmdP, cmdBuf]
  rcases Nat.lt_or_ge i 8 with h | h
  · have := g1 (i - 5)
    interval_cases i <;> simp [commandWord, cmdOp, cmdP, cmdBuf] at * <;> assumption
  rcases Nat.lt_or_ge i 16 with h | h
  · interval_cases i <;> simp [commandWord, cmdOp, cmdP, cmdBuf]
  · have := g2 (i - 16)
    interval_cases i <;> simp [commandWord, cmdOp, cmdP, cmdBuf] at * <;> assumption

/-- A command word as a number (R83). -/
theorem commandWord_eq_ofNat (op : BitVec 4) (p : Bool) (b : Byte) :
    commandWord op p b = BitVec.ofNat 32 (op.toNat + (if p then 16 else 0) + 256 * b.toNat) := by
  have hop : op.toNat < 16 := op.isLt
  have hb : b.toNat < 256 := b.isLt
  have low : op.toNat ||| 16 = 16 + op.toNat := by
    have := Nat.shiftLeft_add_eq_or_of_lt (b := op.toNat) (i := 4) (by omega) 1
    rw [Nat.or_comm]; simpa using this.symm
  have high := fun x (hx : x < 256) => Nat.shiftLeft_add_eq_or_of_lt (b := x) (i := 8) hx b.toNat
  simp only [Nat.shiftLeft_eq] at high
  apply BitVec.eq_of_toNat_eq
  cases p
  · have := high op.toNat (by omega)
    simp only [commandWord, BitVec.toNat_or, BitVec.toNat_shiftLeft, Nat.shiftLeft_eq, BitVec.toNat_setWidth, BitVec.toNat_ofNat]
    rw [Nat.mod_eq_of_lt (b := 2 ^ 32) (a := op.toNat) (by omega), Nat.mod_eq_of_lt (a := b.toNat) (by omega),
      Nat.mod_eq_of_lt (a := b.toNat * 2 ^ 8) (by omega), Nat.or_comm]
    simp at this ⊢
    omega
  · have := high (16 + op.toNat) (by omega)
    simp only [commandWord, BitVec.toNat_or, BitVec.toNat_shiftLeft, Nat.shiftLeft_eq, BitVec.toNat_setWidth, BitVec.toNat_ofNat]
    rw [Nat.mod_eq_of_lt (b := 2 ^ 32) (a := op.toNat) (by omega), Nat.mod_eq_of_lt (a := b.toNat) (by omega),
      Nat.mod_eq_of_lt (a := b.toNat * 2 ^ 8) (by omega)]
    have one : (BitVec.ofBool true).toNat % 2 ^ 32 * 2 ^ 4 % 2 ^ 32 = 16 := by decide
    rw [one, low, Nat.or_comm, ← this]
    simp
    omega

theorem cmdOp_toNat (w : Word) : (cmdOp w).toNat = w.toNat % 16 := by
  simp [cmdOp, BitVec.extractLsb'_toNat]

theorem cmdBuf_toNat (w : Word) : (cmdBuf w).toNat = w.toNat / 256 % 256 := by
  simp [cmdBuf, BitVec.extractLsb'_toNat, Nat.shiftRight_eq_div_pow]

theorem cmdBuf_eq_ofNat (w : Word) : cmdBuf w = BitVec.ofNat 8 (w.toNat / 256) := by
  apply BitVec.eq_of_toNat_eq
  simp [cmdBuf_toNat]

/-- A field of a word is an OP exactly when the number is. -/
theorem cmdOp_eq_iff (w : Word) (op : BitVec 4) : (cmdOp w == op) = true ↔ w.toNat % 16 = op.toNat := by
  rw [beq_iff_eq, ← cmdOp_toNat]
  exact ⟨fun h => h ▸ rfl, BitVec.eq_of_toNat_eq⟩

/-- R79 as numbers. -/
theorem reservedWord_iff (w : Word) : reservedWord w = true ↔
    (w.toNat % 16 < 1 ∨ 4 < w.toNat % 16) ∨ w.toNat / 32 % 8 ≠ 0 ∨ w.toNat / 65536 ≠ 0 := by
  have h1 : (w.extractLsb' 5 3 != 0) = true ↔ w.toNat / 32 % 8 ≠ 0 := by
    rw [bne_iff_ne, ne_eq, ← BitVec.toNat_inj]
    simp [BitVec.extractLsb'_toNat, Nat.shiftRight_eq_div_pow]
  have h2 : (w.extractLsb' 16 16 != 0) = true ↔ w.toNat / 65536 ≠ 0 := by
    rw [bne_iff_ne, ne_eq, ← BitVec.toNat_inj]
    simp only [BitVec.extractLsb'_toNat, Nat.shiftRight_eq_div_pow, BitVec.ofNat_eq_ofNat, BitVec.toNat_ofNat]
    have : w.toNat < 4294967296 := w.isLt
    omega
  simp only [reservedWord, Bool.or_eq_true, h1, h2, Bool.not_eq_true', ← Bool.not_eq_true, cmdOp_eq_iff]
  simp only [opINIT, opARM, opSEND, opRELEASE, BitVec.ofNat_eq_ofNat, BitVec.toNat_ofNat]
  omega

/-- The word of an operation is not reserved. -/
theorem reservedWord_commandWord (op : BitVec 4) (p : Bool) (b : Byte)
    (h : op = opINIT ∨ op = opARM ∨ op = opSEND ∨ op = opRELEASE) : reservedWord (commandWord op p b) = false := by
  simp only [reservedWord, cmdOp_commandWord, commandWord_bits7to5, commandWord_bits31to16]
  rcases h with h | h | h | h <;> subst h <;> decide

end Sys2Proof.Machine
end

