-- ==== Sys2Proof/Laws/State.lean ====
section
/-! SUPPORT. Laws/State.lean: what each elementary update does to each field of State, true by definition, so that no later proof unfolds
a record update. -/

namespace Sys2Proof.Machine

@[simp] theorem State.memWrite_rxst (s : State) (a : Nat) (v : Byte) : (s.memWrite a v).rxst = s.rxst := rfl
@[simp] theorem State.memWrite_rxbuf (s : State) (a : Nat) (v : Byte) : (s.memWrite a v).rxbuf = s.rxbuf := rfl
@[simp] theorem State.memWrite_rxidx (s : State) (a : Nat) (v : Byte) : (s.memWrite a v).rxidx = s.rxidx := rfl
@[simp] theorem State.memWrite_crcerr (s : State) (a : Nat) (v : Byte) : (s.memWrite a v).crcerr = s.crcerr := rfl
@[simp] theorem State.memWrite_txbusy (s : State) (a : Nat) (v : Byte) : (s.memWrite a v).txbusy = s.txbusy := rfl
@[simp] theorem State.memWrite_txbuf (s : State) (a : Nat) (v : Byte) : (s.memWrite a v).txbuf = s.txbuf := rfl
@[simp] theorem State.memWrite_txwake (s : State) (a : Nat) (v : Byte) : (s.memWrite a v).txwake = s.txwake := rfl
@[simp] theorem State.memWrite_txout (s : State) (a : Nat) (v : Byte) : (s.memWrite a v).txout = s.txout := rfl
@[simp] theorem State.memWrite_txoutEpoch (s : State) (a : Nat) (v : Byte) : (s.memWrite a v).txoutEpoch = s.txoutEpoch := rfl
@[simp] theorem State.memWrite_txlen (s : State) (a : Nat) (v : Byte) : (s.memWrite a v).txlen = s.txlen := rfl
@[simp] theorem State.memWrite_txpos (s : State) (a : Nat) (v : Byte) : (s.memWrite a v).txpos = s.txpos := rfl
@[simp] theorem State.memWrite_result (s : State) (a : Nat) (v : Byte) : (s.memWrite a v).result = s.result := rfl
@[simp] theorem State.memWrite_faults (s : State) (a : Nat) (v : Byte) : (s.memWrite a v).faults = s.faults := rfl
@[simp] theorem State.memWrite_bmem (s : State) (a : Nat) (v : Byte) : (s.memWrite a v).bmem = Memory.write a v s.bmem := rfl
@[simp] theorem State.memWrite_bmemEpoch (s : State) (a : Nat) (v : Byte) : (s.memWrite a v).bmemEpoch = s.bmemEpoch := rfl
@[simp] theorem State.memWrite_events (s : State) (a : Nat) (v : Byte) : (s.memWrite a v).events = s.events := rfl
@[simp] theorem State.memWrite_params (s : State) (a : Nat) (v : Byte) : (s.memWrite a v).params = s.params := rfl
@[simp] theorem State.memWrite_line (s : State) (a : Nat) (v : Byte) : (s.memWrite a v).line = s.line := rfl
@[simp] theorem State.memWrite_turns (s : State) (a : Nat) (v : Byte) : (s.memWrite a v).turns = s.turns := rfl
@[simp] theorem State.memWrite_returned (s : State) (a : Nat) (v : Byte) : (s.memWrite a v).returned = s.returned := rfl

@[simp] theorem State.emit_rxst (s : State) (e : Event) : (s.emit e).rxst = s.rxst := rfl
@[simp] theorem State.emit_rxbuf (s : State) (e : Event) : (s.emit e).rxbuf = s.rxbuf := rfl
@[simp] theorem State.emit_rxidx (s : State) (e : Event) : (s.emit e).rxidx = s.rxidx := rfl
@[simp] theorem State.emit_crcerr (s : State) (e : Event) : (s.emit e).crcerr = s.crcerr := rfl
@[simp] theorem State.emit_txbusy (s : State) (e : Event) : (s.emit e).txbusy = s.txbusy := rfl
@[simp] theorem State.emit_txbuf (s : State) (e : Event) : (s.emit e).txbuf = s.txbuf := rfl
@[simp] theorem State.emit_txwake (s : State) (e : Event) : (s.emit e).txwake = s.txwake := rfl
@[simp] theorem State.emit_txout (s : State) (e : Event) : (s.emit e).txout = s.txout := rfl
@[simp] theorem State.emit_txoutEpoch (s : State) (e : Event) : (s.emit e).txoutEpoch = s.txoutEpoch := rfl
@[simp] theorem State.emit_txlen (s : State) (e : Event) : (s.emit e).txlen = s.txlen := rfl
@[simp] theorem State.emit_txpos (s : State) (e : Event) : (s.emit e).txpos = s.txpos := rfl
@[simp] theorem State.emit_result (s : State) (e : Event) : (s.emit e).result = s.result := rfl
@[simp] theorem State.emit_faults (s : State) (e : Event) : (s.emit e).faults = s.faults := rfl
@[simp] theorem State.emit_bmem (s : State) (e : Event) : (s.emit e).bmem = s.bmem := rfl
@[simp] theorem State.emit_bmemEpoch (s : State) (e : Event) : (s.emit e).bmemEpoch = s.bmemEpoch := rfl
@[simp] theorem State.emit_events (s : State) (e : Event) : (s.emit e).events = s.events ++ [e] := rfl
@[simp] theorem State.emit_params (s : State) (e : Event) : (s.emit e).params = s.params := rfl
@[simp] theorem State.emit_line (s : State) (e : Event) : (s.emit e).line = s.line := rfl
@[simp] theorem State.emit_turns (s : State) (e : Event) : (s.emit e).turns = s.turns := rfl
@[simp] theorem State.emit_returned (s : State) (e : Event) : (s.emit e).returned = s.returned := rfl

@[simp] theorem State.setResult_rxst (s : State) (c : ResultCode) : (s.setResult c).rxst = s.rxst := rfl
@[simp] theorem State.setResult_rxbuf (s : State) (c : ResultCode) : (s.setResult c).rxbuf = s.rxbuf := rfl
@[simp] theorem State.setResult_rxidx (s : State) (c : ResultCode) : (s.setResult c).rxidx = s.rxidx := rfl
@[simp] theorem State.setResult_crcerr (s : State) (c : ResultCode) : (s.setResult c).crcerr = s.crcerr := rfl
@[simp] theorem State.setResult_txbusy (s : State) (c : ResultCode) : (s.setResult c).txbusy = s.txbusy := rfl
@[simp] theorem State.setResult_txbuf (s : State) (c : ResultCode) : (s.setResult c).txbuf = s.txbuf := rfl
@[simp] theorem State.setResult_txwake (s : State) (c : ResultCode) : (s.setResult c).txwake = s.txwake := rfl
@[simp] theorem State.setResult_txout (s : State) (c : ResultCode) : (s.setResult c).txout = s.txout := rfl
@[simp] theorem State.setResult_txoutEpoch (s : State) (c : ResultCode) : (s.setResult c).txoutEpoch = s.txoutEpoch := rfl
@[simp] theorem State.setResult_txlen (s : State) (c : ResultCode) : (s.setResult c).txlen = s.txlen := rfl
@[simp] theorem State.setResult_txpos (s : State) (c : ResultCode) : (s.setResult c).txpos = s.txpos := rfl
@[simp] theorem State.setResult_result (s : State) (c : ResultCode) : (s.setResult c).result = c := rfl
@[simp] theorem State.setResult_faults (s : State) (c : ResultCode) : (s.setResult c).faults = s.faults := rfl
@[simp] theorem State.setResult_bmem (s : State) (c : ResultCode) : (s.setResult c).bmem = s.bmem := rfl
@[simp] theorem State.setResult_bmemEpoch (s : State) (c : ResultCode) : (s.setResult c).bmemEpoch = s.bmemEpoch := rfl
@[simp] theorem State.setResult_events (s : State) (c : ResultCode) : (s.setResult c).events = s.events := rfl
@[simp] theorem State.setResult_params (s : State) (c : ResultCode) : (s.setResult c).params = s.params := rfl
@[simp] theorem State.setResult_line (s : State) (c : ResultCode) : (s.setResult c).line = s.line := rfl
@[simp] theorem State.setResult_turns (s : State) (c : ResultCode) : (s.setResult c).turns = s.turns := rfl
@[simp] theorem State.setResult_returned (s : State) (c : ResultCode) : (s.setResult c).returned = s.returned := rfl

@[simp] theorem State.giveBack_rxst (s : State) (v : Returned) : (s.giveBack v).rxst = s.rxst := rfl
@[simp] theorem State.giveBack_rxbuf (s : State) (v : Returned) : (s.giveBack v).rxbuf = s.rxbuf := rfl
@[simp] theorem State.giveBack_rxidx (s : State) (v : Returned) : (s.giveBack v).rxidx = s.rxidx := rfl
@[simp] theorem State.giveBack_crcerr (s : State) (v : Returned) : (s.giveBack v).crcerr = s.crcerr := rfl
@[simp] theorem State.giveBack_txbusy (s : State) (v : Returned) : (s.giveBack v).txbusy = s.txbusy := rfl
@[simp] theorem State.giveBack_txbuf (s : State) (v : Returned) : (s.giveBack v).txbuf = s.txbuf := rfl
@[simp] theorem State.giveBack_txwake (s : State) (v : Returned) : (s.giveBack v).txwake = s.txwake := rfl
@[simp] theorem State.giveBack_txout (s : State) (v : Returned) : (s.giveBack v).txout = s.txout := rfl
@[simp] theorem State.giveBack_txoutEpoch (s : State) (v : Returned) : (s.giveBack v).txoutEpoch = s.txoutEpoch := rfl
@[simp] theorem State.giveBack_txlen (s : State) (v : Returned) : (s.giveBack v).txlen = s.txlen := rfl
@[simp] theorem State.giveBack_txpos (s : State) (v : Returned) : (s.giveBack v).txpos = s.txpos := rfl
@[simp] theorem State.giveBack_result (s : State) (v : Returned) : (s.giveBack v).result = s.result := rfl
@[simp] theorem State.giveBack_faults (s : State) (v : Returned) : (s.giveBack v).faults = s.faults := rfl
@[simp] theorem State.giveBack_bmem (s : State) (v : Returned) : (s.giveBack v).bmem = s.bmem := rfl
@[simp] theorem State.giveBack_bmemEpoch (s : State) (v : Returned) : (s.giveBack v).bmemEpoch = s.bmemEpoch := rfl
@[simp] theorem State.giveBack_events (s : State) (v : Returned) : (s.giveBack v).events = s.events := rfl
@[simp] theorem State.giveBack_params (s : State) (v : Returned) : (s.giveBack v).params = s.params := rfl
@[simp] theorem State.giveBack_line (s : State) (v : Returned) : (s.giveBack v).line = s.line := rfl
@[simp] theorem State.giveBack_turns (s : State) (v : Returned) : (s.giveBack v).turns = s.turns := rfl
@[simp] theorem State.giveBack_returned (s : State) (v : Returned) : (s.giveBack v).returned = v := rfl

@[simp] theorem State.faultOwnership_rxst (s : State) : (s.faultOwnership).rxst = s.rxst := rfl
@[simp] theorem State.faultOwnership_rxbuf (s : State) : (s.faultOwnership).rxbuf = s.rxbuf := rfl
@[simp] theorem State.faultOwnership_rxidx (s : State) : (s.faultOwnership).rxidx = s.rxidx := rfl
@[simp] theorem State.faultOwnership_crcerr (s : State) : (s.faultOwnership).crcerr = s.crcerr := rfl
@[simp] theorem State.faultOwnership_txbusy (s : State) : (s.faultOwnership).txbusy = s.txbusy := rfl
@[simp] theorem State.faultOwnership_txbuf (s : State) : (s.faultOwnership).txbuf = s.txbuf := rfl
@[simp] theorem State.faultOwnership_txwake (s : State) : (s.faultOwnership).txwake = s.txwake := rfl
@[simp] theorem State.faultOwnership_txout (s : State) : (s.faultOwnership).txout = s.txout := rfl
@[simp] theorem State.faultOwnership_txoutEpoch (s : State) : (s.faultOwnership).txoutEpoch = s.txoutEpoch := rfl
@[simp] theorem State.faultOwnership_txlen (s : State) : (s.faultOwnership).txlen = s.txlen := rfl
@[simp] theorem State.faultOwnership_txpos (s : State) : (s.faultOwnership).txpos = s.txpos := rfl
@[simp] theorem State.faultOwnership_result (s : State) : (s.faultOwnership).result = s.result := rfl
@[simp] theorem State.faultOwnership_faults (s : State) : (s.faultOwnership).faults = { s.faults with ownership := true } := rfl
@[simp] theorem State.faultOwnership_bmem (s : State) : (s.faultOwnership).bmem = s.bmem := rfl
@[simp] theorem State.faultOwnership_bmemEpoch (s : State) : (s.faultOwnership).bmemEpoch = s.bmemEpoch := rfl
@[simp] theorem State.faultOwnership_events (s : State) : (s.faultOwnership).events = s.events := rfl
@[simp] theorem State.faultOwnership_params (s : State) : (s.faultOwnership).params = s.params := rfl
@[simp] theorem State.faultOwnership_line (s : State) : (s.faultOwnership).line = s.line := rfl
@[simp] theorem State.faultOwnership_turns (s : State) : (s.faultOwnership).turns = s.turns := rfl
@[simp] theorem State.faultOwnership_returned (s : State) : (s.faultOwnership).returned = s.returned := rfl

@[simp] theorem State.faultRange_rxst (s : State) : (s.faultRange).rxst = s.rxst := rfl
@[simp] theorem State.faultRange_rxbuf (s : State) : (s.faultRange).rxbuf = s.rxbuf := rfl
@[simp] theorem State.faultRange_rxidx (s : State) : (s.faultRange).rxidx = s.rxidx := rfl
@[simp] theorem State.faultRange_crcerr (s : State) : (s.faultRange).crcerr = s.crcerr := rfl
@[simp] theorem State.faultRange_txbusy (s : State) : (s.faultRange).txbusy = s.txbusy := rfl
@[simp] theorem State.faultRange_txbuf (s : State) : (s.faultRange).txbuf = s.txbuf := rfl
@[simp] theorem State.faultRange_txwake (s : State) : (s.faultRange).txwake = s.txwake := rfl
@[simp] theorem State.faultRange_txout (s : State) : (s.faultRange).txout = s.txout := rfl
@[simp] theorem State.faultRange_txoutEpoch (s : State) : (s.faultRange).txoutEpoch = s.txoutEpoch := rfl
@[simp] theorem State.faultRange_txlen (s : State) : (s.faultRange).txlen = s.txlen := rfl
@[simp] theorem State.faultRange_txpos (s : State) : (s.faultRange).txpos = s.txpos := rfl
@[simp] theorem State.faultRange_result (s : State) : (s.faultRange).result = s.result := rfl
@[simp] theorem State.faultRange_faults (s : State) : (s.faultRange).faults = { s.faults with range := true } := rfl
@[simp] theorem State.faultRange_bmem (s : State) : (s.faultRange).bmem = s.bmem := rfl
@[simp] theorem State.faultRange_bmemEpoch (s : State) : (s.faultRange).bmemEpoch = s.bmemEpoch := rfl
@[simp] theorem State.faultRange_events (s : State) : (s.faultRange).events = s.events := rfl
@[simp] theorem State.faultRange_params (s : State) : (s.faultRange).params = s.params := rfl
@[simp] theorem State.faultRange_line (s : State) : (s.faultRange).line = s.line := rfl
@[simp] theorem State.faultRange_turns (s : State) : (s.faultRange).turns = s.turns := rfl
@[simp] theorem State.faultRange_returned (s : State) : (s.faultRange).returned = s.returned := rfl

@[simp] theorem State.queueTurns_rxst (s : State) (ts : List Turn) : (s.queueTurns ts).rxst = s.rxst := rfl
@[simp] theorem State.queueTurns_rxbuf (s : State) (ts : List Turn) : (s.queueTurns ts).rxbuf = s.rxbuf := rfl
@[simp] theorem State.queueTurns_rxidx (s : State) (ts : List Turn) : (s.queueTurns ts).rxidx = s.rxidx := rfl
@[simp] theorem State.queueTurns_crcerr (s : State) (ts : List Turn) : (s.queueTurns ts).crcerr = s.crcerr := rfl
@[simp] theorem State.queueTurns_txbusy (s : State) (ts : List Turn) : (s.queueTurns ts).txbusy = s.txbusy := rfl
@[simp] theorem State.queueTurns_txbuf (s : State) (ts : List Turn) : (s.queueTurns ts).txbuf = s.txbuf := rfl
@[simp] theorem State.queueTurns_txwake (s : State) (ts : List Turn) : (s.queueTurns ts).txwake = s.txwake := rfl
@[simp] theorem State.queueTurns_txout (s : State) (ts : List Turn) : (s.queueTurns ts).txout = s.txout := rfl
@[simp] theorem State.queueTurns_txoutEpoch (s : State) (ts : List Turn) : (s.queueTurns ts).txoutEpoch = s.txoutEpoch := rfl
@[simp] theorem State.queueTurns_txlen (s : State) (ts : List Turn) : (s.queueTurns ts).txlen = s.txlen := rfl
@[simp] theorem State.queueTurns_txpos (s : State) (ts : List Turn) : (s.queueTurns ts).txpos = s.txpos := rfl
@[simp] theorem State.queueTurns_result (s : State) (ts : List Turn) : (s.queueTurns ts).result = s.result := rfl
@[simp] theorem State.queueTurns_faults (s : State) (ts : List Turn) : (s.queueTurns ts).faults = s.faults := rfl
@[simp] theorem State.queueTurns_bmem (s : State) (ts : List Turn) : (s.queueTurns ts).bmem = s.bmem := rfl
@[simp] theorem State.queueTurns_bmemEpoch (s : State) (ts : List Turn) : (s.queueTurns ts).bmemEpoch = s.bmemEpoch := rfl
@[simp] theorem State.queueTurns_events (s : State) (ts : List Turn) : (s.queueTurns ts).events = s.events := rfl
@[simp] theorem State.queueTurns_params (s : State) (ts : List Turn) : (s.queueTurns ts).params = s.params := rfl
@[simp] theorem State.queueTurns_line (s : State) (ts : List Turn) : (s.queueTurns ts).line = s.line := rfl
@[simp] theorem State.queueTurns_turns (s : State) (ts : List Turn) : (s.queueTurns ts).turns = ts ++ s.turns := rfl
@[simp] theorem State.queueTurns_returned (s : State) (ts : List Turn) : (s.queueTurns ts).returned = s.returned := rfl

end Sys2Proof.Machine
end

