-- ==== Sys2Proof/Laws/Memory.lean ====
section
/-! SUPPORT. Laws/Memory.lean: the laws of BMEM (rules R50, R58, R220 of spec/): a read after a write, what a write leaves alone, and that
every memory operation keeps the canonical form and the address range. -/

namespace Sys2Proof.Machine

theorem Memory.read?_write_same (a : Nat) (v : Byte) (m : Memory) : Memory.read? a (Memory.write a v m) = some v := by
  induction m with
  | nil => simp [Memory.write, Memory.read?]
  | cons c rest ih =>
    obtain ⟨k, w⟩ := c
    simp only [Memory.write]
    split
    · simp [Memory.read?]
    · split
      · simp [Memory.read?]
      · rename_i h; simp only [Memory.read?, h]; simpa using ih

theorem Memory.read?_write_other {a b : Nat} (h : b ≠ a) (v : Byte) (m : Memory) :
    Memory.read? b (Memory.write a v m) = Memory.read? b m := by
  induction m with
  | nil => simp [Memory.write, Memory.read?, h]
  | cons c rest ih =>
    obtain ⟨k, w⟩ := c
    simp only [Memory.write]
    split
    · simp [Memory.read?, h]
    · split
      · rename_i hk
        have hk : a = k := by simpa using hk
        subst hk; simp [Memory.read?, h]
      · simp [Memory.read?, ih]

theorem Memory.mem_write {a : Nat} {v : Byte} {m : Memory} {c : Host.Cell} (h : c ∈ Memory.write a v m) : c = (a, v) ∨ c ∈ m := by
  induction m with
  | nil => simpa [Memory.write] using h
  | cons d rest ih =>
    obtain ⟨k, w⟩ := d
    simp only [Memory.write] at h
    split at h
    · simpa using h
    · split at h
      · rcases List.mem_cons.1 h with h | h
        · exact .inl h
        · exact .inr (List.mem_cons_of_mem _ h)
      · rcases List.mem_cons.1 h with h | h
        · exact .inr (h ▸ List.mem_cons_self)
        · exact (ih h).imp id (List.mem_cons_of_mem _)

/-- A write keeps the canonical form. -/
theorem Memory.write_wf (a : Nat) (v : Byte) (m : Memory) (h : Memory.wf m) : Memory.wf (Memory.write a v m) := by
  induction m with
  | nil => simp [Memory.write]
  | cons c rest ih =>
    obtain ⟨k, w⟩ := c
    have ⟨hk, hr⟩ := List.pairwise_cons.1 h
    simp only [Memory.write]
    split
    · rename_i hak
      refine List.pairwise_cons.2 ⟨fun d hd => ?_, h⟩
      rcases List.mem_cons.1 hd with rfl | hd
      · exact hak
      · exact Nat.lt_trans hak (hk d hd)
    · split
      · rename_i hak
        have hak : a = k := by simpa using hak
        subst hak
        exact List.pairwise_cons.2 ⟨fun d hd => hk d hd, hr⟩
      · rename_i h1 h2
        have h2 : a ≠ k := by simpa using h2
        refine List.pairwise_cons.2 ⟨fun d hd => ?_, ih hr⟩
        rcases Memory.mem_write hd with rfl | hd
        · show k < a; omega
        · exact hk d hd

theorem State.memByte_memWrite_same (s : State) (a : Nat) (v : Byte) : (s.memWrite a v).memByte a = v := by
  simp [State.memByte, Memory.read?_write_same]

theorem State.memByte_memWrite_other (s : State) {a b : Nat} (h : b ≠ a) (v : Byte) : (s.memWrite a v).memByte b = s.memByte b := by
  simp [State.memByte, Memory.read?_write_other h]

/-- Only BMEM and the number of its free draws decide what a byte reads as. -/
theorem State.memByte_congr {s t : State} (h : t.bmem = s.bmem) (e : t.bmemEpoch = s.bmemEpoch) (a : Nat) : t.memByte a = s.memByte a := by
  simp [State.memByte, h, e]

/-- A sequence of writes changes BMEM alone. -/
theorem State.memWrites_eq (s : State) (a : Nat) (vs : List Byte) :
    s.memWrites a vs = { s with bmem := (s.memWrites a vs).bmem } := by
  induction vs generalizing s a with
  | nil => rfl
  | cons v vs ih =>
    have h := ih (s.memWrite a v) (a + 1)
    simpa [State.memWrites, State.memWrite] using h

theorem State.memWrites_bmemEpoch (s : State) (a : Nat) (vs : List Byte) : (s.memWrites a vs).bmemEpoch = s.bmemEpoch := by
  rw [State.memWrites_eq]

/-- Outside the bytes written, a sequence of writes changes nothing. -/
theorem State.memByte_memWrites_other (s : State) (a : Nat) (vs : List Byte) {x : Nat} (h : x < a ∨ a + vs.length ≤ x) :
    (s.memWrites a vs).memByte x = s.memByte x := by
  induction vs generalizing s a with
  | nil => rfl
  | cons v vs ih =>
    simp only [State.memWrites]
    rw [ih (s.memWrite a v) (a + 1) (by simp only [List.length_cons] at h; omega)]
    exact State.memByte_memWrite_other s (by simp only [List.length_cons] at h; omega) v

/-- The bytes written are the bytes read back. -/
theorem State.memByte_memWrites_at (s : State) (a : Nat) (vs : List Byte) (k : Nat) (h : k < vs.length) :
    (s.memWrites a vs).memByte (a + k) = vs[k] := by
  induction vs generalizing s a k with
  | nil => simp at h
  | cons v vs ih =>
    simp only [State.memWrites]
    cases k with
    | zero =>
      rw [State.memByte_memWrites_other _ _ _ (.inl (by omega))]
      simpa using State.memByte_memWrite_same s a v
    | succ k =>
      have := ih (s.memWrite a v) (a + 1) k (by simpa using h)
      rw [show a + (k + 1) = a + 1 + k by omega, this]; simp

/-- A sequence of writes keeps the canonical form, and the address range when it writes inside it. -/
theorem State.memoryOk_memWrites (s : State) (a : Nat) (vs : List Byte) (bound : Nat) (h : a + vs.length ≤ bound) (hw : Memory.wf s.bmem)
    (hb : ∀ c ∈ s.bmem, c.1 < bound) : Memory.wf (s.memWrites a vs).bmem ∧ ∀ c ∈ (s.memWrites a vs).bmem, c.1 < bound := by
  induction vs generalizing s a with
  | nil => exact ⟨hw, hb⟩
  | cons v vs ih =>
    simp only [List.length_cons] at h
    refine ih (s.memWrite a v) (a + 1) (by omega) (Memory.write_wf _ _ _ hw) fun c hc => ?_
    rcases Memory.mem_write hc with rfl | hc
    · show a < bound; omega
    · exact hb c hc

/-- The bytes of a range are as many as asked for. -/
@[simp] theorem State.length_memBytes (s : State) (a n : Nat) : (s.memBytes a n).length = n := by
  induction n generalizing a with
  | zero => rfl
  | succ n ih => simp [State.memBytes, ih]

/-- The bytes of a range, one by one. -/
theorem State.memBytes_eq (s : State) (a n : Nat) : s.memBytes a n = (List.range n).map (fun i => s.memByte (a + i)) := by
  induction n generalizing a with
  | zero => rfl
  | succ n ih =>
    rw [State.memBytes, ih, List.range_succ_eq_map]
    simp [Function.comp_def, Nat.add_assoc, Nat.add_comm 1]

/-- A range that a change of state leaves alone reads as before. -/
theorem State.memBytes_congr {s t : State} {a n : Nat} (h : ∀ x, a ≤ x → x < a + n → t.memByte x = s.memByte x) :
    t.memBytes a n = s.memBytes a n := by
  rw [State.memBytes_eq, State.memBytes_eq]
  refine List.map_congr_left fun i hi => h _ (by omega) ?_
  have := List.mem_range.1 hi
  omega

/-- The reset memory has the canonical form. -/
theorem State.resetWith_wf (p : Params) : Memory.wf (State.resetWith p).bmem := List.Pairwise.nil

end Sys2Proof.Machine
end

