-- ==== Sys2Proof/Laws/Ops.lean ====
section
/-! SUPPORT. Laws/Ops.lean: for each shared operation, once, everything it can do. Later proofs cite these and do not unfold the operations. -/

namespace Sys2Proof.Machine

/-- RX owns a buffer exactly while it is armed with it (R38). -/
theorem State.owner_eq_rx_iff (s : State) (n : Nat) : s.owner n = .rx ↔ RxState.armed s.rxst = true ∧ s.rxbuf.toNat = n := by
  unfold State.owner
  split
  · rename_i h; simpa [Bool.and_eq_true] using h
  · rename_i h
    split <;> simp_all

/-- TX owns a buffer exactly while it sends it and RX is not armed with it (R38). -/
theorem State.owner_eq_tx_iff (s : State) (n : Nat) :
    s.owner n = .tx ↔ ¬(RxState.armed s.rxst = true ∧ s.rxbuf.toNat = n) ∧ s.txbusy = true ∧ s.txbuf.toNat = n := by
  unfold State.owner
  split
  · rename_i h; simp_all
  · rename_i h
    split <;> simp_all

/-- The owner depends on four registers only (R38). -/
theorem State.owner_congr {s t : State} (h1 : t.rxst = s.rxst) (h2 : t.rxbuf = s.rxbuf) (h3 : t.txbusy = s.txbusy) (h4 : t.txbuf = s.txbuf)
    (n : Nat) : t.owner n = s.owner n := by
  simp [State.owner, h1, h2, h3, h4]

/-- A CLIENT's load: no value and FAULT_RANGE outside BMEM, else the byte. -/
theorem State.clientLoad_cases (s : State) (a : Nat) :
    (s.params.nbuf * 306 ≤ a ∧ s.clientLoad a = s.faultRange.giveBack .nothing) ∨
      (a < s.params.nbuf * 306 ∧ s.clientLoad a = s.giveBack (.byte (s.memByte a))) := by
  by_cases h : s.params.nbuf * 306 ≤ a
  · exact .inl ⟨h, if_pos h⟩
  · exact .inr ⟨by omega, if_neg h⟩

/-- A CLIENT's store: FAULT_RANGE outside BMEM; inside, the write, with FAULT_OWNERSHIP when the block owns the buffer. -/
theorem State.clientStore_cases (s : State) (a : Nat) (v : Byte) :
    (s.params.nbuf * 306 ≤ a ∧ s.clientStore a v = s.faultRange) ∨
      (a < s.params.nbuf * 306 ∧ s.owner (a / 306) = .client ∧ s.clientStore a v = s.memWrite a v) ∨
      (a < s.params.nbuf * 306 ∧ s.owner (a / 306) ≠ .client ∧ s.clientStore a v = (s.memWrite a v).faultOwnership) := by
  by_cases h : s.params.nbuf * 306 ≤ a
  · exact .inl ⟨h, if_pos h⟩
  · by_cases g : s.owner (a / 306) = .client
    · refine .inr (.inl ⟨by omega, g, ?_⟩)
      exact (if_neg h).trans (if_pos (by simpa using g))
    · refine .inr (.inr ⟨by omega, g, ?_⟩)
      exact (if_neg h).trans (if_neg (by simpa using g))

/-- STORE: the byte in the span and RXIDX counted, or nothing at RX_CAP (R103). -/
theorem State.storeByte_cases (s : State) (v : Byte) :
    (s.rxidx.toNat < 304 ∧ s.storeByte v = { s.memWrite (span s.rxbuf + s.rxidx.toNat) v with rxidx := s.rxidx + 1 }) ∨
      (304 ≤ s.rxidx.toNat ∧ s.storeByte v = s) := by
  by_cases h : s.rxidx.toNat < 304
  · exact .inl ⟨h, if_pos h⟩
  · exact .inr ⟨by omega, if_neg h⟩

/-- INIT: refused, or done (R151). -/
theorem State.initCmd_cases (s : State) (buf : Option Byte) :
    ((s.rxst = .deliver ∨ s.heldByTx buf = true) ∧ s.initCmd buf = s.setResult .errState) ∨
      (s.rxst ≠ .deliver ∧ s.heldByTx buf = false ∧ s.initCmd buf = (State.arm { s with crcerr := 0 } buf).setResult .ok) := by
  unfold State.initCmd
  by_cases h : s.rxst = .deliver
  · exact .inl ⟨.inl h, if_pos (by simpa using h)⟩
  · rw [if_neg (by simpa using h)]
    by_cases g : s.heldByTx buf = true
    · exact .inl ⟨.inr g, if_pos g⟩
    · exact .inr ⟨h, by simpa using g, if_neg g⟩

/-- ARM: refused, or done (R152). -/
theorem State.armCmd_cases (s : State) (buf : Option Byte) :
    ((s.rxst = .deliver ∨ s.heldByTx buf = true) ∧ s.armCmd buf = s.setResult .errState) ∨
      (s.rxst ≠ .deliver ∧ s.heldByTx buf = false ∧ s.armCmd buf = (s.arm buf).setResult .ok) := by
  unfold State.armCmd
  by_cases h : s.rxst = .deliver
  · exact .inl ⟨.inl h, if_pos (by simpa using h)⟩
  · rw [if_neg (by simpa using h)]
    by_cases g : s.heldByTx buf = true
    · exact .inl ⟨.inr g, if_pos g⟩
    · exact .inr ⟨h, by simpa using g, if_neg g⟩

/-- RELEASE: refused, or done (R160). -/
theorem State.releaseCmd_cases (s : State) (buf : Option Byte) :
    ((s.rxst ≠ .deliver ∨ s.heldByTx buf = true) ∧ s.releaseCmd buf = s.setResult .errState) ∨
      (s.rxst = .deliver ∧ s.heldByTx buf = false ∧ s.releaseCmd buf = (s.arm buf).setResult .ok) := by
  unfold State.releaseCmd
  by_cases h : s.rxst = .deliver
  · rw [if_neg (by simpa using h)]
    by_cases g : s.heldByTx buf = true
    · exact .inl ⟨.inr g, if_pos g⟩
    · exact .inr ⟨h, by simpa using g, if_neg g⟩
  · exact .inl ⟨.inl h, if_pos (by simpa using h)⟩

/-- SEND of a buffer: refused without a write, or `sendFrom` (R153). -/
theorem State.sendCmd_cases (s : State) (b : Byte) :
    ((s.txbusy = true ∨ s.owner b.toNat = .rx) ∧ s.sendCmd (some b) = s.setResult .errState) ∨
      (s.txbusy = false ∧ s.owner b.toNat ≠ .rx ∧ 300 < s.lengthOf b ∧ s.sendCmd (some b) = s.setResult .errLen) ∨
      (s.txbusy = false ∧ s.owner b.toNat ≠ .rx ∧ s.lengthOf b ≤ 300 ∧ s.sendCmd (some b) = s.sendFrom b) := by
  unfold State.sendCmd
  by_cases h : s.txbusy = true
  · exact .inl ⟨.inl h, if_pos h⟩
  · have h' : s.txbusy = false := by simpa using h
    by_cases g : s.owner b.toNat = .rx
    · exact .inl ⟨.inr g, by simp [h', g]⟩
    · by_cases l : 300 < s.lengthOf b
      · exact .inr (.inl ⟨h', g, l, by simp [h', g, l]⟩)
      · exact .inr (.inr ⟨h', g, by omega, by simp [h', g, l]⟩)

/-- The encoder's writes touch TXOUT only (R101). -/
theorem State.encodeToTxout_cases (s : State) (src : List Byte) (cap : Nat) :
    ((frameBytes src).length ≤ cap ∧ s.encodeToTxout src cap =
        { s with txout := (frameBytes src ++ s.txout.drop (frameBytes src).length).take s.params.txCap }) ∨
      (cap < (frameBytes src).length ∧ s.encodeToTxout src cap = { s with txout := [], txoutEpoch := s.txoutEpoch + 1 }) := by
  rcases slipResult_cases src cap with ⟨h, g⟩ | ⟨h, g⟩
  · exact .inl ⟨g, by simp only [State.encodeToTxout, h]⟩
  · exact .inr ⟨g, by simp only [State.encodeToTxout, h]⟩

/-- SEND once its checks have passed: accepted, or too long for TXOUT (R153). -/
theorem State.sendFrom_cases (s : State) (b : Byte) :
    ((frameBytes (s.sendFrame b)).length ≤ s.params.txCap ∧ s.sendFrom b =
        { s.storeFcs b with
          txout := (frameBytes (s.sendFrame b) ++ s.txout.drop (frameBytes (s.sendFrame b)).length).take s.params.txCap
          txlen := (frameBytes (s.sendFrame b)).length, txpos := 0, txwake := s.params.wakeupCount, txbuf := b, txbusy := true
          result := .ok }) ∨
      (s.params.txCap < (frameBytes (s.sendFrame b)).length ∧ s.sendFrom b =
        { s.storeFcs b with txout := [], txoutEpoch := s.txoutEpoch + 1, result := .errLen }) := by
  have e : s.storeFcs b = { s with bmem := (s.storeFcs b).bmem } := State.memWrites_eq s _ _
  rcases slipResult_cases (s.sendFrame b) s.params.txCap with ⟨h, g⟩ | ⟨h, g⟩
  · refine .inl ⟨g, ?_⟩
    simp only [State.sendFrom, State.encodeToTxout, h]
    rw [e]; rfl
  · refine .inr ⟨g, ?_⟩
    simp only [State.sendFrom, State.encodeToTxout, h]
    rw [e]; rfl

/-- FRAME_COMPLETE's three outcomes (R156). -/
theorem State.frameComplete_cases (s : State) (len : Nat) :
    (len < 4 ∧ s.frameComplete len = State.discardShort { s with rxidx := 0 } len) ∨
      (4 ≤ len ∧ crcCheck (s.memBytes (span s.rxbuf) len) len crcInit = true ∧
        s.frameComplete len = State.deliverMsg { s with rxidx := 0 } len) ∨
      (4 ≤ len ∧ crcCheck (s.memBytes (span s.rxbuf) len) len crcInit = false ∧
        s.frameComplete len = State.discardCrc { s with rxidx := 0 } len) := by
  unfold State.frameComplete
  by_cases h : len < 4
  · exact .inl ⟨h, if_pos h⟩
  · rw [if_neg (by simpa using h)]
    by_cases g : crcCheck (s.memBytes (span s.rxbuf) len) len crcInit = true
    · exact .inr (.inl ⟨by omega, g, if_pos g⟩)
    · exact .inr (.inr ⟨by omega, by simpa using g, if_neg g⟩)

/-- Delivery writes two LENGTH bytes, RXST and one event (R159). -/
theorem State.deliverMsg_eq (s : State) (len : Nat) : s.deliverMsg len =
    { s with rxst := .deliver, events := s.events ++ [.msgReady s.rxbuf (len - 4)],
             bmem := (s.memWrites (base s.rxbuf) (le16 (BitVec.ofNat 16 (len - 4)))).bmem } := by
  have e := State.memWrites_eq s (base s.rxbuf) (le16 (BitVec.ofNat 16 (len - 4)))
  rw [State.deliverMsg, show len - hdrSize - fcsSize = len - 4 by simp [hdrSize, fcsSize]; omega, e]
  rfl

/-- The decoder's transition table (R105 to R115). -/
theorem State.decodeByte_cases (s : State) (d : Byte) (h : s.rxst ≠ .deliver) :
    (s.rxst = .idle ∧ s.decodeByte d = s) ∨
      (s.rxst = .awaitStart ∧ d = 0xC0 ∧ s.decodeByte d = { s with rxidx := 0, rxst := .inFrame }) ∨
      (s.rxst = .awaitStart ∧ d ≠ 0xC0 ∧ s.decodeByte d = s) ∨
      (s.rxst = .inFrame ∧ d = 0xC0 ∧ s.rxidx = 0 ∧ s.decodeByte d = s) ∨
      (s.rxst = .inFrame ∧ d = 0xC0 ∧ s.rxidx ≠ 0 ∧ s.decodeByte d = s.frameComplete s.rxidx.toNat) ∨
      (s.rxst = .inFrame ∧ d = 0xDB ∧ s.decodeByte d = { s with rxst := .escape }) ∨
      (s.rxst = .inFrame ∧ d ≠ 0xC0 ∧ d ≠ 0xDB ∧ s.decodeByte d = s.storeByte d) ∨
      (s.rxst = .escape ∧ d = 0xDC ∧ s.decodeByte d = { s.storeByte 0xC0 with rxst := .inFrame }) ∨
      (s.rxst = .escape ∧ d = 0xDD ∧ s.decodeByte d = { s.storeByte 0xDB with rxst := .inFrame }) ∨
      (s.rxst = .escape ∧ d ≠ 0xDC ∧ d ≠ 0xDD ∧ s.decodeByte d = s.abortFrame) := by
  unfold State.decodeByte
  cases e : s.rxst
  · simp
  · by_cases c : d = 0xC0
    · subst c; simp [wireEND]
    · have : (d == wireEND) = false := by simpa [wireEND] using c
      exact .inr (.inr (.inl ⟨rfl, c, by simp [this]⟩))
  · by_cases c : d = 0xC0
    · subst c
      by_cases z : s.rxidx = 0
      · simp [wireEND, z]
      · exact .inr (.inr (.inr (.inr (.inl ⟨rfl, rfl, z, by simp [wireEND]; exact fun h => absurd h z⟩))))
    · have c' : (d == wireEND) = false := by simpa [wireEND] using c
      by_cases x : d = 0xDB
      · subst x
        exact .inr (.inr (.inr (.inr (.inr (.inl ⟨rfl, rfl, rfl⟩)))))
      · have x' : (d == wireESC) = false := by simpa [wireESC] using x
        exact .inr (.inr (.inr (.inr (.inr (.inr (.inl ⟨rfl, c, x, by simp [c', x']⟩))))))
  · by_cases c : d = 0xDC
    · subst c
      exact .inr (.inr (.inr (.inr (.inr (.inr (.inr (.inl ⟨rfl, rfl, rfl⟩)))))))
    · have c' : (d == wireESC_END) = false := by simpa [wireESC_END] using c
      by_cases x : d = 0xDD
      · subst x
        exact .inr (.inr (.inr (.inr (.inr (.inr (.inr (.inr (.inl ⟨rfl, rfl, rfl⟩))))))))
      · have x' : (d == wireESC_ESC) = false := by simpa [wireESC_ESC] using x
        exact .inr (.inr (.inr (.inr (.inr (.inr (.inr (.inr (.inr ⟨rfl, c, x, by simp [c', x']⟩))))))))
  · exact absurd e h

/-- An offered byte is taken and decoded, or kept in DELIVER (R104). -/
theorem State.rxStep_cases (s : State) (d : Byte) :
    (s.rxst = .deliver ∧ s.rxStep d = { s with line := d :: s.line }) ∨
      (s.rxst ≠ .deliver ∧ s.rxStep d = (s.emit (.rxIn d)).decodeByte d) := by
  unfold State.rxStep State.rxReady
  by_cases h : s.rxst = .deliver
  · exact .inl ⟨h, by simp [h]⟩
  · exact .inr ⟨h, by simp [h]⟩

/-- LINE_RX's offer: nothing, kept in DELIVER, or the oldest byte decoded. -/
theorem State.offerLine_cases (s : State) :
    ((s.line = [] ∨ s.rxst = .deliver) ∧ s.offerLine = s) ∨
      ∃ d rest, s.line = d :: rest ∧ s.rxst ≠ .deliver ∧
        s.offerLine = (State.emit { s with line := rest } (.rxIn d)).decodeByte d := by
  unfold State.offerLine
  cases e : s.line with
  | nil => exact .inl ⟨.inl rfl, rfl⟩
  | cons d rest =>
    rcases State.rxStep_cases { s with line := rest } d with ⟨h, g⟩ | ⟨h, g⟩
    · refine .inl ⟨.inr h, ?_⟩
      show State.rxStep { s with line := rest } d = s
      rw [g]; cases s; simp_all
    · exact .inr ⟨d, rest, rfl, h, g⟩

/-- TXACK's four cases (R154, R155). -/
theorem State.txackStep_cases (s : State) :
    (s.txbusy = false ∧ s.txackStep = s) ∨
      (s.txbusy = true ∧ 0 < s.txwake ∧
        s.txackStep = { s with events := s.events ++ [.txOut s.params.wakeupByte], txwake := s.txwake - 1 }) ∨
      (s.txbusy = true ∧ s.txwake = 0 ∧ s.txpos + 1 ≠ s.txlen ∧
        s.txackStep = { s with events := s.events ++ [.txOut (s.txoutByte s.txpos)], txpos := s.txpos + 1 }) ∨
      (s.txbusy = true ∧ s.txwake = 0 ∧ s.txpos + 1 = s.txlen ∧
        s.txackStep = { s with events := s.events ++ [.txOut (s.txoutByte s.txpos), .txDone s.txbuf], txpos := s.txpos + 1,
                               txbusy := false, txbuf := 0 }) := by
  unfold State.txackStep State.txValid
  cases e : s.txbusy
  · exact .inl ⟨rfl, rfl⟩
  · by_cases w : 0 < s.txwake
    · exact .inr (.inl ⟨rfl, w, by simp [w, e, State.emit]⟩)
    · have w' : s.txwake = 0 := by omega
      by_cases l : s.txpos + 1 = s.txlen
      · refine .inr (.inr (.inr ⟨rfl, w', l, ?_⟩))
        simp [w', l, State.completeSend, State.emit]
      · refine .inr (.inr (.inl ⟨rfl, w', l, ?_⟩))
        simp [w', l, State.emit, e]

/-- A command ends in one of: ERR_BUF, or its own run; then the event (R150). -/
theorem State.command_cases (s : State) (w : Word) (p : Bool) (buf : Byte) (run : State → State) :
    (p = true ∧ s.params.nbuf ≤ buf.toNat ∧ s.command w p buf run = (s.setResult .errBuf).emit (.cmd w .errBuf)) ∨
      ((p = true → buf.toNat < s.params.nbuf) ∧ s.command w p buf run = (run s).emit (.cmd w (run s).result)) := by
  by_cases h : p = true ∧ s.params.nbuf ≤ buf.toNat
  · exact .inl ⟨h.1, h.2, by simp [State.command, h.1, h.2]⟩
  · refine .inr ⟨fun hp => by by_contra c; exact h ⟨hp, by omega⟩, ?_⟩
    have : (p && decide (s.params.nbuf ≤ buf.toNat)) = false := by
      cases p
      · rfl
      · simp at h ⊢; omega
    simp [State.command, this]

/-- The command step: a reserved word, or the command of its fields (R150, R79). -/
theorem State.commandStep_cases (s : State) (w : Word) :
    (reservedWord w = true ∧ s.commandStep w = (s.setResult .errOp).emit (.cmd w .errOp)) ∨
      (reservedWord w = false ∧ cmdOp w = opINIT ∧
        s.commandStep w = s.command w (cmdP w) (cmdBuf w) (fun t => t.initCmd (bufOperand (cmdP w) (cmdBuf w)))) ∨
      (reservedWord w = false ∧ cmdOp w = opARM ∧
        s.commandStep w = s.command w (cmdP w) (cmdBuf w) (fun t => t.armCmd (bufOperand (cmdP w) (cmdBuf w)))) ∨
      (reservedWord w = false ∧ cmdOp w = opSEND ∧
        s.commandStep w = s.command w (cmdP w) (cmdBuf w) (fun t => t.sendCmd (bufOperand (cmdP w) (cmdBuf w)))) ∨
      (reservedWord w = false ∧ cmdOp w = opRELEASE ∧
        s.commandStep w = s.command w (cmdP w) (cmdBuf w) (fun t => t.releaseCmd (bufOperand (cmdP w) (cmdBuf w)))) := by
  cases r : reservedWord w
  · have hop : cmdOp w = opINIT ∨ cmdOp w = opARM ∨ cmdOp w = opSEND ∨ cmdOp w = opRELEASE := by
      by_contra c
      simp only [not_or] at c
      simp [reservedWord, c.1, c.2.1, c.2.2.1, c.2.2.2] at r
    refine .inr ?_
    rcases hop with h | h | h | h
    · exact .inl ⟨rfl, h, by simp [State.commandStep, r, h]⟩
    · exact .inr (.inl ⟨rfl, h, by simp [State.commandStep, r, h, show (opARM == opINIT) = false by decide]⟩)
    · exact .inr (.inr (.inl ⟨rfl, h, by
        simp [State.commandStep, r, h, show (opSEND == opINIT) = false by decide, show (opSEND == opARM) = false by decide]⟩))
    · exact .inr (.inr (.inr ⟨rfl, h, by
        simp [State.commandStep, r, h, show (opRELEASE == opINIT) = false by decide, show (opRELEASE == opARM) = false by decide,
          show (opRELEASE == opSEND) = false by decide]⟩))
  · exact .inl ⟨rfl, by simp [State.commandStep, r, State.reservedCommand]⟩

end Sys2Proof.Machine
end

