-- ==== Sys2Proof/Laws/PerInstr.lean ====
section
/-! SUPPORT. Laws/PerInstr.lean: facts about each instruction as syntax, one lemma per constructor. Family Format: the encoder puts
every instruction into the format that spec/opcode_table.json gives its row. -/

namespace Sys2Proof.Laws.Format

/-- The formats of spec/opcode_table.json (column "format"). -/
inductive Table where
  | cmd32 | reg8 | mem8 | wire8 | wireSymbol | env | internal | pseudo
  deriving DecidableEq, Repr

/-- The format of a row, as the table gives it. -/
def ofRow : Instr → Table
  | .init _ _ => .cmd32
  | .arm _ _ => .cmd32
  | .send _ _ => .cmd32
  | .release _ _ => .cmd32
  | .cmdReserved _ => .cmd32
  | .rdStatus => .reg8
  | .rdRxcnt => .reg8
  | .rdCrcerr => .reg8
  | .wrCmd _ => .reg8
  | .rdWrOther _ => .reg8
  | .ld _ => .mem8
  | .st _ _ => .mem8
  | .wireEnd => .wire8
  | .wireEsc => .wire8
  | .wireEscEnd => .wire8
  | .wireEscEsc => .wire8
  | .delim => .wireSymbol
  | .lit _ => .wireSymbol
  | .xend => .wireSymbol
  | .xesc => .wireSymbol
  | .rxIdle _ => .wire8
  | .rxEndAwaitStart => .wire8
  | .rxOtherAwaitStart _ => .wire8
  | .rxEndInFrameStored => .wire8
  | .rxEndInFrameEmpty => .wire8
  | .rxEscInFrame => .wire8
  | .rxDataInFrame _ => .wire8
  | .rxEscEndEscape => .wire8
  | .rxEscEscEscape => .wire8
  | .rxOtherEscape _ => .wire8
  | .txack => .env
  | .reset => .env
  | .crc16 _ _ _ => .internal
  | .crcCheck _ _ _ => .internal
  | .slipEncode _ _ => .internal
  | .store _ => .internal
  | .frameComplete _ => .internal
  | .frameCompleteShort _ => .internal
  | .frameCompleteCrcFail _ => .internal
  | .frameCompleteDeliver _ => .internal
  | .pause => .pseudo
  | .setlen _ _ => .pseudo
  | .fill _ _ _ => .pseudo
  | .msg _ _ _ _ => .pseudo
  | .rxs _ => .pseudo
  | .txackAll => .pseudo

/-- The format of an encoded operation. -/
def ofCoded : Coded → Table
  | .cmd32 _ => .cmd32
  | .reg8 _ _ => .reg8
  | .mem8 _ _ => .mem8
  | .wire8 _ => .wire8
  | .wireSymbol _ => .wireSymbol
  | .rx8 _ _ _ => .wire8
  | .txAccept => .env
  | .powerOn => .env
  | .internal _ => .internal
  | .pseudo _ => .pseudo

/-- The encoding has its row's format. -/
def Statement (i : Instr) : Prop := ofCoded (encode i) = ofRow i

theorem init (p : Bool) (buf : Byte) : Statement (.init p buf) := rfl
theorem arm (p : Bool) (buf : Byte) : Statement (.arm p buf) := rfl
theorem send (p : Bool) (buf : Byte) : Statement (.send p buf) := rfl
theorem release (p : Bool) (buf : Byte) : Statement (.release p buf) := rfl
theorem cmdReserved (w : Word) : Statement (.cmdReserved w) := rfl
theorem rdStatus : Statement (.rdStatus) := rfl
theorem rdRxcnt : Statement (.rdRxcnt) := rfl
theorem rdCrcerr : Statement (.rdCrcerr) := rfl
theorem wrCmd (w : Word) : Statement (.wrCmd w) := rfl
theorem rdWrOther (a : RegAccess) : Statement (.rdWrOther a) := by cases a <;> rfl
theorem ld (a : Nat) : Statement (.ld a) := rfl
theorem st (a : Nat) (v : Byte) : Statement (.st a v) := rfl
theorem wireEnd : Statement (.wireEnd) := rfl
theorem wireEsc : Statement (.wireEsc) := rfl
theorem wireEscEnd : Statement (.wireEscEnd) := rfl
theorem wireEscEsc : Statement (.wireEscEsc) := rfl
theorem delim : Statement (.delim) := rfl
theorem lit (d : Byte) : Statement (.lit d) := rfl
theorem xend : Statement (.xend) := rfl
theorem xesc : Statement (.xesc) := rfl
theorem rxIdle (d : Byte) : Statement (.rxIdle d) := rfl
theorem rxEndAwaitStart : Statement (.rxEndAwaitStart) := rfl
theorem rxOtherAwaitStart (d : Byte) : Statement (.rxOtherAwaitStart d) := rfl
theorem rxEndInFrameStored : Statement (.rxEndInFrameStored) := rfl
theorem rxEndInFrameEmpty : Statement (.rxEndInFrameEmpty) := rfl
theorem rxEscInFrame : Statement (.rxEscInFrame) := rfl
theorem rxDataInFrame (d : Byte) : Statement (.rxDataInFrame d) := rfl
theorem rxEscEndEscape : Statement (.rxEscEndEscape) := rfl
theorem rxEscEscEscape : Statement (.rxEscEscEscape) := rfl
theorem rxOtherEscape (d : Byte) : Statement (.rxOtherEscape d) := rfl
theorem txack : Statement (.txack) := rfl
theorem reset : Statement (.reset) := rfl
theorem crc16 (data : List Byte) (n : Nat) (seed : U16) : Statement (.crc16 data n seed) := rfl
theorem crcCheck (data : List Byte) (n : Nat) (seed : U16) : Statement (.crcCheck data n seed) := rfl
theorem slipEncode (src : List Byte) (cap : Nat) : Statement (.slipEncode src cap) := rfl
theorem store (v : Byte) : Statement (.store v) := rfl
theorem frameComplete (len : Nat) : Statement (.frameComplete len) := rfl
theorem frameCompleteShort (len : Nat) : Statement (.frameCompleteShort len) := rfl
theorem frameCompleteCrcFail (len : Nat) : Statement (.frameCompleteCrcFail len) := rfl
theorem frameCompleteDeliver (len : Nat) : Statement (.frameCompleteDeliver len) := rfl
theorem pause : Statement (.pause) := rfl
theorem setlen (buf : Byte) (n : U16) : Statement (.setlen buf n) := rfl
theorem fill (buf : Byte) (off : Nat) (data : List Byte) : Statement (.fill buf off data) := rfl
theorem msg (buf : Byte) (sap : Byte) (mid : Byte) (payload : List Byte) : Statement (.msg buf sap mid payload) := rfl
theorem rxs (data : List Byte) : Statement (.rxs data) := rfl
theorem txackAll : Statement (.txackAll) := rfl

end Sys2Proof.Laws.Format
end

