-- ==== Sys2Proof/Laws/Step.lean ====
section
/-! SUPPORT. Laws/Step.lean: what each turn does, once: every step is one of the shared operations on the state without that turn. -/

namespace Sys2Proof.Machine

/-- A word that is not reserved has one of the four OPs (R79). -/
theorem cmdOp_of_not_reserved (w : Word) (h : reservedWord w = false) :
    cmdOp w = opINIT ∨ cmdOp w = opARM ∨ cmdOp w = opSEND ∨ cmdOp w = opRELEASE := by
  by_contra c
  simp only [not_or] at c
  simp [reservedWord, c.1, c.2.1, c.2.2.1, c.2.2.2] at h

/-- A word that is not reserved is the word of its fields (R77, R79). -/
theorem commandWord_of_not_reserved (w : Word) (h : reservedWord w = false) : commandWord (cmdOp w) (cmdP w) (cmdBuf w) = w := by
  simp only [reservedWord, Bool.or_eq_false_iff] at h
  exact commandWord_of_fields w (by simpa using h.1.2) (by simpa using h.2)

/-- The row a byte takes in the decoder's state is the decoder step on that byte (R104). -/
theorem exec_of_decodeRx {st : RxState} {stored : Bool} {d : Byte} {i : Instr} (h : decodeRx st stored d = some i) (s : State) :
    exec i s = .next (s.rxStep d) := by
  cases st
  · cases h; rfl
  · simp only [decodeRx] at h
    split at h <;> cases h
    · rename_i c; rw [beq_iff_eq.1 c]; rfl
    · rfl
  · simp only [decodeRx] at h
    split at h
    · rename_i c
      rw [beq_iff_eq.1 c]
      split at h <;> cases h <;> rfl
    · split at h <;> cases h
      · rename_i c; rw [beq_iff_eq.1 c]; rfl
      · rfl
  · simp only [decodeRx] at h
    split at h
    · rename_i c; cases h; rw [beq_iff_eq.1 c]; rfl
    · split at h <;> cases h
      · rename_i c; rw [beq_iff_eq.1 c]; rfl
      · rfl
  · cases h

/-- A byte has a row in every state but DELIVER (R104). -/
theorem decodeRx_eq_none_iff (st : RxState) (stored : Bool) (d : Byte) : decodeRx st stored d = none ↔ st = .deliver := by
  cases st <;> simp [decodeRx]

/-- The step a LINE_RX turn takes is the offer of its oldest byte. -/
theorem fetchLine_runs (s : State) :
    (match s.fetchLine with | .wait t => Host.Outcome.next t | .run i t => exec i t) = .next s.offerLine := by
  unfold State.fetchLine State.offerLine
  cases e : s.line with
  | nil => rfl
  | cons d rest =>
    cases r : decodeRx s.rxst (s.rxidx != 0) d with
    | none =>
      have h := (decodeRx_eq_none_iff _ _ _).1 r
      rcases State.rxStep_cases { s with line := rest } d with ⟨_, g⟩ | ⟨g, _⟩
      · simp only [r, g]; cases s; simp_all
      · exact absurd h g
    | some i => simp only [r]; exact exec_of_decodeRx r _

/-- What a turn does to the state without it. -/
def State.runTurn (s : State) : Turn → State
  | .command w => s.commandStep w
  | .regRead k => s.giveBack (.register (s.regWord k))
  | .regWrite k v => if k == 3 then s.commandStep v else s
  | .memRead a => s.clientLoad a
  | .memWrite a v => s.clientStore a v
  | .rx d => State.offerLine { s with line := s.line ++ [d] }
  | .rxHeld => s.offerLine
  | .txAccept => s.txackStep
  | .powerOn => s.powerOn
  | .pseudo .pause => s.command (commandWord opARM false 0) false 0 (fun t => t.armCmd none)
  | .pseudo (.setlen buf n) => s.storeSequence (base buf) (le16 n)
  | .pseudo (.fill buf off data) => s.storeSequence (base buf + off) data
  | .pseudo (.msg buf sap mid payload) =>
    s.storeSequence (base buf) (le16 (BitVec.ofNat 16 payload.length) ++ sap :: mid :: payload)
  | .pseudo (.rxs data) => s.rxSequence data
  | .pseudo .txackAll => s.txackRepeat

theorem step_nil {s : State} (h : s.turns = []) : step s = .next s := by simp [step, State.fetch, h]

/-- What a word that is not reserved decodes to, OP by OP (R78). -/
theorem decodeCommand_cases (w : Word) (r : reservedWord w = false) :
    (cmdOp w = opINIT → decodeCommand w = .init (cmdP w) (cmdBuf w)) ∧ (cmdOp w = opARM → decodeCommand w = .arm (cmdP w) (cmdBuf w)) ∧
      (cmdOp w = opSEND → decodeCommand w = .send (cmdP w) (cmdBuf w)) ∧
      (cmdOp w = opRELEASE → decodeCommand w = .release (cmdP w) (cmdBuf w)) := by
  have : opARM ≠ opINIT := by decide
  have : opSEND ≠ opINIT := by decide
  have : opSEND ≠ opARM := by decide
  have : opRELEASE ≠ opINIT := by decide
  have : opRELEASE ≠ opARM := by decide
  have : opRELEASE ≠ opSEND := by decide
  refine ⟨fun h => ?_, fun h => ?_, fun h => ?_, fun h => ?_⟩ <;> simp [decodeCommand, *]

/-- The meaning of a decoded command is the command step on its word (R83, R150). -/
theorem exec_decodeCommand (w : Word) (s : State) : exec (decodeCommand w) s = .next (s.commandStep w) := by
  cases r : reservedWord w
  · have hw := commandWord_of_not_reserved w r
    have ⟨d1, d2, d3, d4⟩ := decodeCommand_cases w r
    rcases State.commandStep_cases s w with ⟨h, _⟩ | ⟨_, h, g⟩ | ⟨_, h, g⟩ | ⟨_, h, g⟩ | ⟨_, h, g⟩
    · rw [r] at h; cases h
    · rw [h] at hw; rw [g, d1 h]; simp only [exec, execInit, hw]
    · rw [h] at hw; rw [g, d2 h]; simp only [exec, execArm, hw]
    · rw [h] at hw; rw [g, d3 h]; simp only [exec, execSend, hw]
    · rw [h] at hw; rw [g, d4 h]; simp only [exec, execRelease, hw]
  · simp [decodeCommand, r, exec, execCmdReserved]

/-- A register read hands over the register's word (R161 to R164). -/
theorem exec_decodeRegRead (k : Byte) (s : State) : exec (decodeRegRead k) s = .next (s.giveBack (.register (s.regWord k))) := by
  unfold decodeRegRead
  by_cases h0 : k = 0
  · subst h0; rfl
  · by_cases h1 : k = 1
    · subst h1; rfl
    · by_cases h2 : k = 2
      · subst h2; rfl
      · rw [if_neg (by simpa using h0), if_neg (by simpa using h1), if_neg (by simpa using h2)]; rfl

/-- A register write is the command step for CMD and nothing otherwise (R35, R36, R164). -/
theorem exec_decodeRegWrite (k : Byte) (v : Word) (s : State) :
    exec (decodeRegWrite k v) s = .next (if k == 3 then s.commandStep v else s) := by
  unfold decodeRegWrite
  by_cases h : k = 3
  · subst h; rfl
  · rw [if_neg (by simpa using h)]; rfl

/-- Every step: the first turn's operation on the state without it (R12). -/
theorem step_cons {s : State} {turn : Turn} {rest : List Turn} (h : s.turns = turn :: rest) :
    step s = .next (State.runTurn { s with turns := rest } turn) := by
  unfold step State.fetch
  rw [h]
  cases turn with
  | command w => exact exec_decodeCommand w _
  | regRead k => exact exec_decodeRegRead k _
  | regWrite k v => exact exec_decodeRegWrite k v _
  | memRead a => rfl
  | memWrite a v => rfl
  | rx d => exact fetchLine_runs _
  | rxHeld => exact fetchLine_runs _
  | txAccept => rfl
  | powerOn => rfl
  | pseudo p => cases p <;> rfl

/-- The inversion of a step: no turn and no change, or the first turn's operation. -/
theorem step_cases {s t : State} (h : step s = .next t) :
    (s.turns = [] ∧ t = s) ∨ ∃ turn rest, s.turns = turn :: rest ∧ t = State.runTurn { s with turns := rest } turn := by
  cases e : s.turns with
  | nil => rw [step_nil e] at h; cases h; exact .inl ⟨rfl, rfl⟩
  | cons turn rest => rw [step_cons e] at h; cases h; exact .inr ⟨turn, rest, rfl, rfl⟩

/-- A step always answers (R190). -/
theorem step_total (s : State) : ∃ t, step s = .next t := by
  cases e : s.turns with
  | nil => exact ⟨s, step_nil e⟩
  | cons turn rest => exact ⟨_, step_cons e⟩

/-- A byte that reaches an empty LINE_RX outside DELIVER is taken and decoded in its own step (R104). -/
theorem step_rx {s : State} {d : Byte} {rest : List Turn} (ht : s.turns = .rx d :: rest) (hl : s.line = []) (hd : s.rxst ≠ .deliver) :
    step s = .next ((State.emit { s with turns := rest } (.rxIn d)).decodeByte d) := by
  rw [step_cons ht]
  rcases State.offerLine_cases { s with turns := rest, line := s.line ++ [d] } with ⟨h | h, _⟩ | ⟨d', r, h, _, e⟩
  · simp at h
  · exact absurd h hd
  · simp only [hl, List.nil_append, List.cons.injEq] at h
    obtain ⟨rfl, rfl⟩ := h
    simp only [State.runTurn]
    rw [e, ← hl]

/-- The oldest byte LINE_RX holds is taken and decoded in a turn of LINE_RX outside DELIVER (R104). -/
theorem step_rxHeld {s : State} {d : Byte} {q : List Byte} {rest : List Turn} (ht : s.turns = .rxHeld :: rest) (hl : s.line = d :: q)
    (hd : s.rxst ≠ .deliver) : step s = .next ((State.emit { s with turns := rest, line := q } (.rxIn d)).decodeByte d) := by
  rw [step_cons ht]
  rcases State.offerLine_cases { s with turns := rest } with ⟨h | h, _⟩ | ⟨d', r, h, _, e⟩
  · exact absurd (hl.symm.trans h) (by simp)
  · exact absurd h hd
  · have h := hl.symm.trans h
    simp only [List.cons.injEq] at h
    obtain ⟨rfl, rfl⟩ := h
    simp only [State.runTurn]
    rw [e]

/-! Runs of several steps. -/

theorem run_zero (s : State) : Host.Core.run core 0 s = .next s := rfl

theorem run_succ {s t : State} (k : Nat) (h : step s = .next t) : Host.Core.run core (k + 1) s = Host.Core.run core k t := by
  have g : core.step s = .next t := h
  simp only [Host.Core.run]
  rw [g]

theorem run_one {s t : State} (h : step s = .next t) : Host.Core.run core 1 s = .next t := by
  rw [run_succ 0 h, run_zero]

theorem run_add {j : Nat} (k : Nat) {s t : State} (h : Host.Core.run core j s = .next t) :
    Host.Core.run core (j + k) s = Host.Core.run core k t := by
  induction j generalizing s with
  | zero => cases h; rw [Nat.zero_add]
  | succ j ih =>
    obtain ⟨u, hu⟩ := step_total s
    rw [run_succ _ hu] at h
    rw [Nat.add_right_comm, run_succ _ hu]
    exact ih h

end Sys2Proof.Machine
end

