-- ==== Sys2Proof/Tests/Slice0.lean ====
section
/-! SUPPORT. Tests/Slice0.lean: the model's own tests. Expected values come from spec/30_encoding.md (words), the examples of the rules,
and the vectors V-… of spec/95_test_vectors.md; a test's comment names its source. The last part holds the witnesses: for every
obligation with hypotheses, a state and operands that meet them together. -/

namespace Sys2Proof.Tests

open Sys2Proof Sys2Proof.Machine

/-- The parameters of spec/95_test_vectors.md, with a wake-up character to tell apart. -/
def params2 : Params := ⟨2, 610, 0, 0x55⟩

/-- Right after reset. -/
def fresh : State := State.resetWith params2

/-- Memory cells from address `a` on. -/
def cells (a : Nat) (vs : List Byte) : Memory := vs.mapIdx (fun i v => (a + i, v))

/-- The span of the reference frame G. -/
def spanG : List Byte := [0x10, 0x0D, 0x01, 0x11, 0x22, 0x33, 0x22, 0x19]

/-- The reference frame G. -/
def frameG : List Byte := [0xC0, 0x10, 0x0D, 0x01, 0x11, 0x22, 0x33, 0x22, 0x19, 0xC0]

/-- After `INIT b0`. -/
def waiting : State := { fresh with rxst := .awaitStart }

/-- In a frame with `n` bytes stored in b0. -/
def inFrame (n : U16) : State := { fresh with rxst := .inFrame, rxidx := n }

/-- After an ESC in a frame with `n` bytes stored in b0. -/
def escaped (n : U16) : State := { fresh with rxst := .escape, rxidx := n }

/-- G's span is stored in b0, its closing END is yet to come. -/
def almostG : State := { inFrame 8 with bmem := cells 2 spanG }

/-- The same for G′, whose last byte is wrong. -/
def almostBad : State := { inFrame 8 with bmem := cells 2 [0x10, 0x0D, 0x01, 0x11, 0x22, 0x33, 0x22, 0x18] }

/-- V-DEC-1: G is delivered in b0. -/
def delivered : State := { fresh with rxst := .deliver, bmem := cells 0 (0x04 :: 0x00 :: spanG) }

/-- V-CMD-15 before its SEND: b0 armed, the message `10 0D 01 11 22 33` in b1. -/
def composed : State := { waiting with bmem := cells 306 [0x04, 0x00, 0x10, 0x0D, 0x01, 0x11, 0x22, 0x33] }

/-- V-CMD-15 after its SEND: b1 is being sent. -/
def sending : State :=
  { waiting with
    bmem := cells 306 (0x04 :: 0x00 :: spanG), txbusy := true, txbuf := 1, txout := frameG, txlen := 10, txpos := 0 }

/-- V-CMD-22: LENGTH of b0 is 301. -/
def tooLong : State := { fresh with bmem := cells 0 [0x2D, 0x01] }

/-- V-CMD-23 and V-CMD-24: the reference message in b0, TX_CAP given. -/
def narrow (cap : Nat) : State :=
  { State.resetWith ⟨2, cap, 0, 0x55⟩ with bmem := cells 0 [0x04, 0x00, 0x10, 0x0D, 0x01, 0x11, 0x22, 0x33] }

/-- LENGTH of b0 is 300, its header and payload are free draws. -/
def longest : State := { fresh with bmem := cells 0 [0x2C, 0x01] }

/-- The state of a next outcome. -/
def after (o : Host.Outcome State Fault Refusal) : State :=
  match o with
  | .next t => t
  | .fault _ => fresh
  | .refused _ => fresh

/-! ### Decoding: words written out from spec/30_encoding.md -/

-- R77, R78: reserved [31:16], BUF [15:8], reserved [7:5], P [4], OP [3:0].
theorem test_decode_commands :
    decode (.cmd32 0b00000000000000000000000100010001) = .ok (.init true 1) ∧
    decode (.cmd32 0b00000000000000000000000000000001) = .ok (.init false 0) ∧
    decode (.cmd32 0b00000000000000000000000000010010) = .ok (.arm true 0) ∧
    decode (.cmd32 0b00000000000000001111111100010011) = .ok (.send true 255) ∧
    decode (.cmd32 0b00000000000000001000000100000100) = .ok (.release false 0x81) ∧
    decode (.cmd32 0b00000000000000000000000000000000) = .ok (.cmdReserved 0) ∧
    decode (.cmd32 0b00000000000000000000000000000101) = .ok (.cmdReserved 5) ∧
    decode (.cmd32 0b00000000000000000000000001010001) = .ok (.cmdReserved 0x51) ∧
    decode (.cmd32 0b00000000000000100000000000010001) = .ok (.cmdReserved 0x20011) := ⟨rfl, rfl, rfl, rfl, rfl, rfl, rfl, rfl, rfl⟩

-- R82.
theorem test_decode_registers :
    decode (.reg8 0b00000000 none) = .ok .rdStatus ∧ decode (.reg8 0b00000001 none) = .ok .rdRxcnt ∧
    decode (.reg8 0b00000010 none) = .ok .rdCrcerr ∧ decode (.reg8 0b00000011 (some 0x11)) = .ok (.wrCmd 0x11) ∧
    decode (.reg8 0b00000011 none) = .ok (.rdWrOther (.read 3)) ∧ decode (.reg8 0b11111111 none) = .ok (.rdWrOther (.read 255)) ∧
    decode (.reg8 0b00000000 (some 1)) = .ok (.rdWrOther (.write 0 1)) := ⟨rfl, rfl, rfl, rfl, rfl, rfl, rfl⟩

-- R83: `LD a`, `ST a, v`.
theorem test_decode_memory : decode (.mem8 306 none) = .ok (.ld 306) ∧ decode (.mem8 5 (some 7)) = .ok (.st 5 7) := ⟨rfl, rfl⟩

-- R70.
theorem test_decode_wire_bytes :
    decode (.wire8 0b11000000) = .ok .wireEnd ∧ decode (.wire8 0b11011011) = .ok .wireEsc ∧
    decode (.wire8 0b11011100) = .ok .wireEscEnd ∧ decode (.wire8 0b11011101) = .ok .wireEscEsc ∧
    decode (.wire8 0b11011110) = .error (.notReservedByte 0xDE) := ⟨rfl, rfl, rfl, rfl, rfl⟩

-- R71, R86.
theorem test_decode_symbols :
    decode (.wireSymbol [0b11000000]) = .ok .delim ∧ decode (.wireSymbol [0b11011100]) = .ok (.lit 0xDC) ∧
    decode (.wireSymbol [0b11011011, 0b11011100]) = .ok .xend ∧ decode (.wireSymbol [0b11011011, 0b11011101]) = .ok .xesc ∧
    decode (.wireSymbol [0b11011011, 0b11000000]) = .error (.invalidEscape 0xC0) ∧
    decode (.wireSymbol [0b11011011]) = .error .truncatedEscape ∧ decode (.wireSymbol []) = .error .emptySymbol ∧
    decode (.wireSymbol [0x10, 0x0D]) = .error (.trailingBytes 1) := ⟨rfl, rfl, rfl, rfl, rfl, rfl, rfl, rfl⟩

-- R105 to R114, the transition table of R115.
theorem test_decode_receive_rows :
    decode (.rx8 .idle false 0xC0) = .ok (.rxIdle 0xC0) ∧ decode (.rx8 .awaitStart false 0xC0) = .ok .rxEndAwaitStart ∧
    decode (.rx8 .awaitStart false 0xDB) = .ok (.rxOtherAwaitStart 0xDB) ∧ decode (.rx8 .inFrame true 0xC0) = .ok .rxEndInFrameStored ∧
    decode (.rx8 .inFrame false 0xC0) = .ok .rxEndInFrameEmpty ∧ decode (.rx8 .inFrame true 0xDB) = .ok .rxEscInFrame ∧
    decode (.rx8 .inFrame true 0xDD) = .ok (.rxDataInFrame 0xDD) ∧ decode (.rx8 .escape true 0xDC) = .ok .rxEscEndEscape ∧
    decode (.rx8 .escape true 0xDD) = .ok .rxEscEscEscape ∧ decode (.rx8 .escape true 0xC0) = .ok (.rxOtherEscape 0xC0) ∧
    decode (.rx8 .deliver false 0xC0) = .error .lineHeld := ⟨rfl, rfl, rfl, rfl, rfl, rfl, rfl, rfl, rfl, rfl, rfl⟩

-- R85, and the rows without bits.
theorem test_decode_rows_without_bits :
    decode .txAccept = .ok .txack ∧ decode .powerOn = .ok .reset ∧ decode (.internal (.crc16 [1] 1 0)) = .ok (.crc16 [1] 1 0) ∧
    decode (.internal (.crcCheck [1] 1 0)) = .ok (.crcCheck [1] 1 0) ∧ decode (.internal (.slipEncode [1] 9)) = .ok (.slipEncode [1] 9) ∧
    decode (.internal (.store 1)) = .ok (.store 1) ∧ decode (.internal (.frameComplete 4)) = .ok (.frameComplete 4) ∧
    decode (.internal (.frameCompleteShort 3)) = .ok (.frameCompleteShort 3) ∧
    decode (.internal (.frameCompleteCrcFail 4)) = .ok (.frameCompleteCrcFail 4) ∧
    decode (.internal (.frameCompleteDeliver 4)) = .ok (.frameCompleteDeliver 4) := ⟨rfl, rfl, rfl, rfl, rfl, rfl, rfl, rfl, rfl, rfl⟩

-- R84, R85.
theorem test_decode_pseudo :
    decode (.pseudo .pause) = .ok .pause ∧ decode (.pseudo (.setlen 1 300)) = .ok (.setlen 1 300) ∧
    decode (.pseudo (.fill 1 2 [3])) = .ok (.fill 1 2 [3]) ∧ decode (.pseudo (.msg 1 0x10 0x0D [3])) = .ok (.msg 1 0x10 0x0D [3]) ∧
    decode (.pseudo (.rxs [3])) = .ok (.rxs [3]) ∧ decode (.pseudo .txackAll) = .ok .txackAll := ⟨rfl, rfl, rfl, rfl, rfl, rfl⟩

-- The numbers of spec/opcode_table.json.
theorem test_decode_table_words :
    decodeTableWord 32 0x00000111 = some (.init true 1) ∧ decodeTableWord 32 0x00000003 = some (.send false 0) ∧
    decodeTableWord 16 0xDBDC = some .xend ∧ decodeTableWord 16 0xDBDD = some .xesc ∧ decodeTableWord 16 0xDB41 = none ∧
    decodeTableWord 8 0xC0 = some .wireEnd ∧ decodeTableWord 8 0x00 = some .rdStatus ∧ decodeTableWord 8 0x02 = some .rdCrcerr ∧
    decodeTableWord 8 0x03 = some (.wrCmd 0) ∧ decodeTableWord 24 0 = none := ⟨rfl, rfl, rfl, rfl, rfl, rfl, rfl, rfl, rfl, rfl⟩

/-! ### Well-formedness: for each check, a term it refuses and the nearest one it lets through -/

theorem test_wf_reserved : (Instr.cmdReserved 0x11).wf = false ∧ (Instr.cmdReserved 0x31).wf = true := by decide
theorem test_wf_register_read : (Instr.rdWrOther (.read 2)).wf = false ∧ (Instr.rdWrOther (.read 3)).wf = true := by decide
theorem test_wf_register_write : (Instr.rdWrOther (.write 3 0)).wf = false ∧ (Instr.rdWrOther (.write 2 0)).wf = true := by decide
theorem test_wf_lit : (Instr.lit 0xC0).wf = false ∧ (Instr.lit 0xDB).wf = false ∧ (Instr.lit 0xDC).wf = true := by decide
theorem test_wf_await : (Instr.rxOtherAwaitStart 0xC0).wf = false ∧ (Instr.rxOtherAwaitStart 0xDB).wf = true := by decide
theorem test_wf_data :
    (Instr.rxDataInFrame 0xC0).wf = false ∧ (Instr.rxDataInFrame 0xDB).wf = false ∧ (Instr.rxDataInFrame 0xDD).wf = true := by decide
theorem test_wf_escape :
    (Instr.rxOtherEscape 0xDC).wf = false ∧ (Instr.rxOtherEscape 0xDD).wf = false ∧ (Instr.rxOtherEscape 0xC0).wf = true := by decide
theorem test_wf_crc : (Instr.crc16 [1] 2 0).wf = false ∧ (Instr.crc16 [1] 1 0).wf = true := by decide
theorem test_wf_crcCheck : (Instr.crcCheck [1] 2 0).wf = false ∧ (Instr.crcCheck [1] 1 0).wf = true := by decide
theorem test_wf_frameComplete :
    (Instr.frameComplete 0).wf = false ∧ (Instr.frameComplete 305).wf = false ∧ (Instr.frameComplete 304).wf = true := by decide
theorem test_wf_short :
    (Instr.frameCompleteShort 0).wf = false ∧ (Instr.frameCompleteShort 4).wf = false ∧ (Instr.frameCompleteShort 3).wf = true := by decide
theorem test_wf_crcFail :
    (Instr.frameCompleteCrcFail 3).wf = false ∧ (Instr.frameCompleteCrcFail 305).wf = false ∧
      (Instr.frameCompleteCrcFail 4).wf = true := by decide
theorem test_wf_deliver :
    (Instr.frameCompleteDeliver 3).wf = false ∧ (Instr.frameCompleteDeliver 305).wf = false ∧
      (Instr.frameCompleteDeliver 304).wf = true := by decide
theorem test_wf_msg : (Instr.msg 0 0 0 (List.replicate 65536 0)).wf = false ∧ (Instr.msg 0 0 0 [1]).wf = true := by
  simp only [Instr.wf, List.length_replicate]
  decide

/-! ### Commands (spec/95_test_vectors.md 2.4) -/

-- R151 example: `INIT b0`; the counter is cleared.
theorem test_init_arms :
    (after (exec (.init true 0) { fresh with crcerr := 7 })).statusWord = 0x00000081 ∧
    (after (exec (.init true 0) { fresh with crcerr := 7 })).crcerr = 0 := by decide
-- V-CMD-20: b1 is owned by TX, CRCERR is not cleared.
theorem test_init_of_sent_buffer :
    (after (exec (.init true 1) { sending with crcerr := 7 })).result = .errState ∧
    (after (exec (.init true 1) { sending with crcerr := 7 })).crcerr = 7 := by decide
-- R152 example, and V-CMD-34: CRCERR stays.
theorem test_arm_keeps_crcerr :
    (after (exec (.arm true 1) { fresh with crcerr := 1 })).statusWord = 0x00000181 ∧
    (after (exec (.arm true 1) { fresh with crcerr := 1 })).crcerr = 1 := by decide
-- V-CMD-30.
theorem test_arm_in_deliver : (after (exec (.arm true 1) delivered)).statusWord = 0x000000B4 := by decide
-- V-CMD-15: status, TXLEN, TXOUT and the FCS in BMEM[314..315].
theorem test_send_encodes :
    (after (exec (.send true 1) composed)).statusWord = 0x00010089 ∧ (after (exec (.send true 1) composed)).txout = frameG ∧
    (after (exec (.send true 1) composed)).txlen = 10 ∧ (after (exec (.send true 1) composed)).memBytes 314 2 = [0x22, 0x19] := by
  decide +kernel
-- V-CMD-23: TX_CAP = 9.
theorem test_send_too_long_for_txout :
    (after (exec (.send true 0) (narrow 9))).result = .errLen ∧ (after (exec (.send true 0) (narrow 9))).txbusy = false ∧
    (after (exec (.send true 0) (narrow 9))).memBytes 8 2 = [0x22, 0x19] := by decide +kernel
-- V-CMD-32 and V-CMD-33: b0 delivered and being sent.
theorem test_release :
    (after (exec (.release true 0) { delivered with txbusy := true })).result = .errState ∧
    (after (exec (.release true 1) { delivered with txbusy := true })).statusWord = 0x00000189 := by decide
-- V-CMD-13; V-DEC-10: RELEASE none.
theorem test_release_none :
    (after (exec (.release false 0) fresh)).result = .errState ∧ (after (exec (.release false 0) delivered)).statusWord = 0 := by decide
-- V-CMD-4, V-CMD-7.
theorem test_reserved_words :
    (after (exec (.cmdReserved 0x31) fresh)).events = [.cmd 0x31 .errOp] ∧
    (after (exec (.cmdReserved 0x80000011) fresh)).statusWord = 0x50 := by decide
-- V-CMD-8, V-CMD-10, V-CMD-14, V-CMD-17, V-CMD-18, V-CMD-22, V-CMD-1: the priority of R194.
theorem test_error_priority :
    (after (exec (.wrCmd 0x211) fresh)).result = .errBuf ∧ (after (exec (.wrCmd 0x3) fresh)).result = .errNull ∧
    (after (exec (.wrCmd 0x13) waiting)).result = .errState ∧ (after (exec (.wrCmd 0x3) sending)).result = .errNull ∧
    (after (exec (.wrCmd 0x213) sending)).result = .errBuf ∧ (after (exec (.wrCmd 0x13) tooLong)).statusWord = 0x20 ∧
    (after (exec (.wrCmd 0x0) sending)).result = .errOp := by decide
-- V-REG-5.
theorem test_wrCmd : (after (exec (.wrCmd 0x05) fresh)).statusWord = 0x50 := by decide

/-! ### Registers and BMEM (spec/95_test_vectors.md 2.6) -/

-- V-REG-6; V-CMD-21.
theorem test_rdStatus :
    (after (exec .rdStatus { delivered with rxbuf := 1 })).returned = .register 0x00000184 ∧
    (after (exec .rdStatus { sending with result := .errState })).returned = .register 0x000100B9 := by decide
-- V-DEC-13.
theorem test_rdRxcnt : (after (exec .rdRxcnt (inFrame 3))).returned = .register 3 := by decide
-- R163 example.
theorem test_rdCrcerr :
    (after (exec .rdCrcerr { waiting with crcerr := 1 })).returned = .register 1 ∧
    (after (exec .rdCrcerr { waiting with crcerr := 1 })).crcerr = 1 := by decide
-- V-REG-7, V-REG-8.
theorem test_rdWrOther :
    (after (exec (.rdWrOther (.read 255)) delivered)).returned = .register 0 ∧
    (after (exec (.rdWrOther (.write 0 0xFFFFFFFF)) delivered)) = delivered := by decide
-- R165 example; V-MEM-4.
theorem test_ld :
    (after (exec (.ld 2) delivered)).returned = .byte 0x10 ∧ (after (exec (.ld 612) fresh)).faults = ⟨false, true⟩ ∧
    (after (exec (.ld 612) fresh)).returned = .nothing := by decide
-- V-MEM-1, V-MEM-6.
theorem test_st :
    (after (exec (.st 5 0x00) waiting)).faults = ⟨true, false⟩ ∧ (after (exec (.st 5 0x00) waiting)).memByte 5 = 0 ∧
    (after (exec (.st 3 0x0E) delivered)).faults = ⟨false, false⟩ ∧ (after (exec (.st 3 0x0E) delivered)).memByte 3 = 0x0E := by decide
-- V-MEM-3, V-MEM-2.
theorem test_st_range :
    (after (exec (.st 612 0x00) fresh)) = { fresh with faults := ⟨false, true⟩ } ∧
    (after (exec (.st 306 0x07) waiting)).faults = ⟨false, false⟩ := by decide

/-! ### Wire bytes and symbols -/

-- R106 example.
theorem test_wireEnd : (after (exec .wireEnd waiting)).rxst = .inFrame := by decide
-- R110 example.
theorem test_wireEsc : (after (exec .wireEsc (inFrame 2))).rxst = .escape := by decide
-- R112 example, R111 corner case.
theorem test_wireEscEnd :
    (after (exec .wireEscEnd (escaped 2))).memByte 4 = 0xC0 ∧ (after (exec .wireEscEnd (inFrame 2))).memByte 4 = 0xDC := by decide
-- R113 example.
theorem test_wireEscEsc : (after (exec .wireEscEsc { escaped 0 with rxbuf := 1 })).memByte 308 = 0xDB := by decide
theorem test_delim : (after (exec .delim waiting)).rxst = .inFrame := by decide
-- R111 example.
theorem test_lit : (after (exec (.lit 0x10) (inFrame 0))).memByte 2 = 0x10 ∧ (after (exec (.lit 0x10) (inFrame 0))).rxidx = 1 := by decide
-- R71, R72: two steps, ESC first.
theorem test_xend :
    (after (exec .xend (inFrame 0))).rxst = .escape ∧ (after (step (after (exec .xend (inFrame 0))))).memByte 2 = 0xC0 := by decide
theorem test_xesc :
    (after (exec .xesc (inFrame 0))).line = [0xDD] ∧ (after (step (after (exec .xesc (inFrame 0))))).memByte 2 = 0xDB := by decide

/-! ### The decoder's rows (the rules' examples) -/

theorem test_rxIdle : (after (exec (.rxIdle 0xC0) fresh)) = { fresh with events := [.rxIn 0xC0] } := by decide
theorem test_rxEndAwaitStart : (after (exec .rxEndAwaitStart waiting)).statusWord = 0x00000082 := by decide
theorem test_rxOtherAwaitStart : (after (exec (.rxOtherAwaitStart 0x10) waiting)).bmem = [] := by decide
-- V-DEC-1.
theorem test_rxEndInFrameStored :
    (after (exec .rxEndInFrameStored almostG)).bmem = delivered.bmem ∧
    (after (exec .rxEndInFrameStored almostG)).events = [.rxIn 0xC0, .msgReady 0 4] := by decide +kernel
theorem test_rxEndInFrameEmpty : (after (exec .rxEndInFrameEmpty (inFrame 0))) = { inFrame 0 with events := [.rxIn 0xC0] } := by decide
theorem test_rxEscInFrame : (after (exec .rxEscInFrame (inFrame 2))).rxidx = 2 := by decide
theorem test_rxDataInFrame : (after (exec (.rxDataInFrame 0x10) (inFrame 0))).bmem = [(2, 0x10)] := by decide
theorem test_rxEscEndEscape :
    (after (exec .rxEscEndEscape (escaped 2))).bmem = [(4, 0xC0)] ∧ (after (exec .rxEscEndEscape (escaped 2))).rxst = .inFrame := by decide
theorem test_rxEscEscEscape : (after (exec .rxEscEscEscape { escaped 0 with rxbuf := 1 })).bmem = [(308, 0xDB)] := by decide
theorem test_rxOtherEscape :
    (after (exec (.rxOtherEscape 0x41) (escaped 3))).events = [.rxIn 0x41, .discard .abort 3] ∧
    (after (exec (.rxOtherEscape 0xC0) (escaped 1))).rxst = .awaitStart := by decide

/-! ### Transmission (spec/95_test_vectors.md 2.5) and reset -/

-- V-TX-2: the first byte of two wake-up characters.
theorem test_txack_wake :
    (after (exec .txack { sending with txwake := 2 })).events = [.txOut 0x55] ∧
    (after (exec .txack { sending with txwake := 2 })).txwake = 1 := by decide
-- R155 example.
theorem test_txack_last :
    (after (exec .txack { sending with txpos := 9 })).events = [.txOut 0xC0, .txDone 1] ∧
    (after (exec .txack { sending with txpos := 9 })).statusWord = 0x00000081 := by decide
-- R220.
theorem test_reset :
    (after (exec .reset { sending with crcerr := 7, faults := ⟨true, true⟩ })).statusWord = 0 ∧
    (after (exec .reset { sending with crcerr := 7, faults := ⟨true, true⟩ })).faults = ⟨false, false⟩ := by decide

/-! ### CRC, encoder and frame completion (spec/95_test_vectors.md 2.1, 2.2) -/

-- V-CRC-5, V-CRC-1.
theorem test_crc16 :
    (after (exec (.crc16 [0x31, 0x32, 0x33, 0x34, 0x35, 0x36, 0x37, 0x38, 0x39] 9 0xFFFF) fresh)).returned = .crc 0x6F91 ∧
    (after (exec (.crc16 [] 0 0xFFFF) fresh)).returned = .crc 0xFFFF := by decide +kernel
-- R131 example, V-CRC-12, V-CRC-14.
theorem test_crcCheck :
    (after (exec (.crcCheck spanG 8 0xFFFF) fresh)).returned = .check true ∧
    (after (exec (.crcCheck [0, 0, 0, 0] 4 0xFFFF) fresh)).returned = .check false ∧
    (after (exec (.crcCheck [0x10, 0x0D, 0x02, 0x11, 0x22, 0x33, 0xEF, 0x3C] 8 0xFFFF) fresh)).returned = .check true := by decide +kernel
-- V-ENC-10, V-ENC-11.
theorem test_slipEncode :
    (after (exec (.slipEncode [0xC0] 4) fresh)).txout = [0xC0, 0xDB, 0xDC, 0xC0] ∧
    (after (exec (.slipEncode [0xC0] 3) fresh)).returned = .encoded none := by decide
-- V-ENC-7, V-ENC-12.
theorem test_slipEncode_corners :
    (after (exec (.slipEncode [0xDB, 0xDC] 610) fresh)).txout = [0xC0, 0xDB, 0xDD, 0xDC, 0xC0] ∧
    (after (exec (.slipEncode [] 1) fresh)).returned = .encoded none := by decide
-- R103 example, V-DEC-8: BMEM[305] is the last byte stored.
theorem test_store :
    (after (exec (.store 0x55) (inFrame 304))) = inFrame 304 ∧ (after (exec (.store 0x55) (inFrame 303))).bmem = [(305, 0x55)] := by decide
-- R156 example, V-DEC-5.
theorem test_frameComplete :
    (after (exec (.frameComplete 3) (inFrame 3))).events = [.discard .short 3] ∧
    (after (exec (.frameComplete 8) almostBad)).crcerr = 1 := by decide +kernel
-- R157 example.
theorem test_frameCompleteShort : (after (exec (.frameCompleteShort 3) (inFrame 0))).rxst = .awaitStart := by decide
-- V-CMD-36.
theorem test_frameCompleteCrcFail : (after (exec (.frameCompleteCrcFail 8) { inFrame 0 with crcerr := 0xFFFFFFFF })).crcerr = 0 := by decide
-- V-DEC-12: LENGTH 300 in b1 is `2C 01`.
theorem test_frameCompleteDeliver :
    (after (exec (.frameCompleteDeliver 304) { inFrame 0 with rxbuf := 1 })).bmem = [(306, 0x2C), (307, 0x01)] := by decide

/-! ### Pseudo-instructions (program P2 of spec/95_test_vectors.md) -/

theorem test_pause : (after (exec .pause waiting)).events = [.cmd 0x2 .ok] ∧ (after (exec .pause waiting)).rxst = .idle := by decide
theorem test_setlen :
    (after (exec (.setlen 1 0x012C) fresh)).bmem = [(306, 0x2C)] ∧
    (after (exec (.setlen 1 0x012C) fresh)).turns = [.memWrite 307 0x01] := by decide
theorem test_fill :
    (after (exec (.fill 1 2 [0x10, 0x0D]) fresh)).bmem = [(308, 0x10)] ∧
    (after (exec (.fill 1 2 [0x10, 0x0D]) fresh)).turns = [.memWrite 309 0x0D] := by decide
theorem test_msg :
    (after (exec (.msg 1 0x10 0x0D [0x01, 0x11]) fresh)).bmem = [(306, 0x02)] ∧
    (after (exec (.msg 1 0x10 0x0D [0x01, 0x11]) fresh)).turns =
      [.memWrite 307 0x00, .memWrite 308 0x10, .memWrite 309 0x0D, .memWrite 310 0x01, .memWrite 311 0x11] := by decide
theorem test_rxs :
    (after (exec (.rxs [0xC0, 0x10]) waiting)).rxst = .inFrame ∧ (after (exec (.rxs [0xC0, 0x10]) waiting)).turns = [.rxHeld] ∧
    (after (exec (.rxs [0xC0, 0x10]) waiting)).line = [0x10] := by decide
theorem test_txackAll :
    (after (exec .txackAll sending)).turns = [.pseudo .txackAll] ∧ (after (exec .txackAll { sending with txpos := 9 })).turns = [] := by
  decide

/-! ### Steps -/

-- R224: in DELIVER LINE_RX keeps its byte.
theorem test_step_holds_line : (after (step { delivered with turns := [.rx 0xC0] })) = { delivered with line := [0xC0] } := by decide
-- A CLIENT's command through the step.
theorem test_step_command : (after (step { fresh with turns := [.command 0x11] })).statusWord = 0x00000081 := by decide

/-! ### Witnesses: the hypotheses of each obligation hold together -/

/-- Every step answers, so the hypothesis `step s = .next t` is met by every state. -/
theorem step_after (s : State) : step s = .next (after (step s)) := by
  obtain ⟨t, h⟩ := step_total s
  rw [h]; rfl

theorem witness_InvariantHoldsAtReset : Params.ok ⟨1, 2, 0, 0⟩ ∧ Params.ok ⟨256, 2, 0, 0⟩ ∧ Params.ok Config.resetParams := by decide

theorem witness_EveryStepKeepsInvariant :
    State.Inv { sending with turns := [.txAccept] } ∧
      step { sending with turns := [.txAccept] } = .next (after (step { sending with turns := [.txAccept] })) :=
  ⟨by decide, step_after _⟩

theorem witness_DecodeOfEncodeIsIdentity :
    (Instr.lit 0xDC).wf = true ∧ (Instr.init false 255).wf = true ∧ (Instr.frameComplete 1).wf = true := by decide

theorem witness_StepRunsDecodedOperation_client :
    State.turns { fresh with turns := [.command 0x11] } = [.command 0x11] ∧ decode (.cmd32 0x11) = .ok (.init true 0) ∧
    State.turns { fresh with turns := [.regRead 3] } = [.regRead 3] ∧ decode (.reg8 3 none) = .ok (.rdWrOther (.read 3)) ∧
    State.turns { fresh with turns := [.regWrite 3 0x11] } = [.regWrite 3 0x11] ∧ decode (.reg8 3 (some 0x11)) = .ok (.wrCmd 0x11) ∧
    State.turns { fresh with turns := [.memRead 612] } = [.memRead 612] ∧ decode (.mem8 612 none) = .ok (.ld 612) ∧
    State.turns { fresh with turns := [.memWrite 5 7] } = [.memWrite 5 7] ∧ decode (.mem8 5 (some 7)) = .ok (.st 5 7) ∧
    State.turns { fresh with turns := [.pseudo .pause] } = [.pseudo .pause] ∧ decode (.pseudo .pause) = .ok .pause :=
  ⟨rfl, rfl, rfl, rfl, rfl, rfl, rfl, rfl, rfl, rfl, rfl, rfl⟩

theorem witness_StepRunsDecodedOperation_line :
    State.turns { waiting with turns := [.rx 0xC0] } = [.rx 0xC0] ∧ waiting.line = [] ∧ Spec.row waiting 0xC0 = some .rxEndAwaitStart ∧
    State.turns { waiting with turns := [.rx 0x10], line := [0xC0] } = [.rx 0x10] ∧
    State.turns { waiting with turns := [.rxHeld], line := [0xC0] } = [.rxHeld] ∧
    State.turns { waiting with turns := [.txAccept] } = [.txAccept] ∧ State.turns { waiting with turns := [.powerOn] } = [.powerOn] ∧
    waiting.turns = [] := ⟨rfl, rfl, rfl, rfl, rfl, rfl, rfl, rfl⟩

theorem witness_PlacedTableWordRunsFirst :
    decodeTableWord 32 0x111 = some (.init true 1) ∧ decodeTableWord 16 0xDBDC = some .xend ∧ decodeTableWord 8 0xC0 = some .wireEnd ∧
    decodeTableWord 8 3 = some (.wrCmd 0) ∧ decodeTableWord 8 255 = some (.rdWrOther (.read 255)) := ⟨rfl, rfl, rfl, rfl, rfl⟩

theorem witness_LineIsHeldDuringDelivery :
    delivered.rxst = .deliver ∧ State.turns { delivered with turns := [.rx 0xC0] } = [.rx 0xC0] ∧
    State.turns { delivered with turns := [.rxHeld] } = [.rxHeld] := by decide

theorem witness_ReservedWordGivesErrOp :
    (0x10 : Word) &&& 0xF = 0 ∧ 4 < ((0x15 : Word) &&& 0xF).toNat ∧ (0x31 : Word) &&& 0xE0 ≠ 0 ∧ (0x10011 : Word) &&& 0xFFFF0000 ≠ 0 := by
  decide

theorem witness_BufferOperandChecks :
    fresh.params.nbuf ≤ (2 : Byte).toNat ∧ fresh.params.nbuf ≤ (255 : Byte).toNat ∧
    (Instr.send true 2, Spec.word 3 true 2) ∈ [(Instr.init true 2, Spec.word 1 true 2), (.arm true 2, Spec.word 2 true 2),
      (.send true 2, Spec.word 3 true 2), (.release true 2, Spec.word 4 true 2)] := by decide

/-- For INIT, ARM and RELEASE: the last buffer of the block, and no buffer whatever BUF is. -/
theorem witness_InitResult_ArmResult_ReleaseResult : Spec.bufOk fresh true 1 ∧ Spec.bufOk fresh false 255 :=
  ⟨fun _ => by decide, fun h => absurd h (by decide)⟩

theorem witness_SendRefusedChangesOnlyResult :
    (1 : Byte).toNat < sending.params.nbuf ∧ sending.txbusy = true ∧ waiting.owner (0 : Byte).toNat = .rx ∧
    tooLong.txbusy = false ∧ tooLong.owner (0 : Byte).toNat ≠ .rx ∧ Spec.lengthField tooLong 0 = 301 := by decide

theorem witness_SendAcceptedEncodesFrame :
    (0 : Byte).toNat < (narrow 10).params.nbuf ∧ (narrow 10).txbusy = false ∧ (narrow 10).owner (0 : Byte).toNat ≠ .rx ∧
    Spec.lengthField (narrow 10) 0 ≤ 300 ∧ (Spec.sent (narrow 10) 0).length = (narrow 10).params.txCap := by decide +kernel

theorem onWire_length_le (l : List Byte) : (Spec.onWire l).length ≤ 2 + 2 * l.length := by
  have h : (l.flatMap Spec.esc).length ≤ 2 * l.length := by
    induction l with
    | nil => simp
    | cons d ds ih =>
      have : (Spec.esc d).length ≤ 2 := by unfold Spec.esc; split <;> [decide; (split <;> simp)]
      simp only [List.flatMap_cons, List.length_append, List.length_cons]
      omega
  simp only [Spec.onWire, List.length_append, List.length_singleton]
  omega

theorem witness_SendAcceptedEncodesFrame_longest :
    (0 : Byte).toNat < longest.params.nbuf ∧ longest.txbusy = false ∧ longest.owner (0 : Byte).toNat ≠ .rx ∧
    Spec.lengthField longest 0 = 300 ∧ (Spec.sent longest 0).length ≤ longest.params.txCap := by
  refine ⟨by decide, by decide, by decide, by decide, ?_⟩
  have l : Spec.lengthField longest 0 = 300 := by decide
  refine (onWire_length_le _).trans ?_
  simp only [Spec.message, Spec.bytesFrom, Spec.fcsBytes, List.length_append, List.length_map, List.length_range, l]
  decide

theorem witness_SendTooLongForTxoutStoresFcsOnly :
    (0 : Byte).toNat < (narrow 9).params.nbuf ∧ (narrow 9).txbusy = false ∧ (narrow 9).owner (0 : Byte).toNat ≠ .rx ∧
    Spec.lengthField (narrow 9) 0 ≤ 300 ∧ (Spec.sent (narrow 9) 0).length = (narrow 9).params.txCap + 1 := by decide +kernel

theorem witness_CommandErrorsChangeNothingElse :
    (after (exec (.wrCmd 0x14) fresh)).result = .errState ∧
    (after (exec (.wrCmd 0x13) tooLong)).result = .errLen ∧ Spec.lengthField tooLong (BitVec.ofNat 8 ((0x13 : Word).toNat / 256)) = 301 ∧
    (after (exec (.wrCmd 0x13) (narrow 9))).result = .errLen ∧
    Spec.lengthField (narrow 9) (BitVec.ofNat 8 ((0x13 : Word).toNat / 256)) ≤ 300 := by decide +kernel

theorem witness_OtherRegisterAccesses : 3 ≤ (3 : Byte).toNat ∧ 3 ≤ (255 : Byte).toNat ∧ (2 : Byte) ≠ 3 ∧ (4 : Byte) ≠ 3 := by decide

/-- For loads and stores: the last address of BMEM and the first beyond it. -/
theorem witness_Load_Store_ranges : 611 < fresh.params.nbuf * 306 ∧ fresh.params.nbuf * 306 ≤ 612 := by decide

theorem witness_OwnerOfBuffer : sending.Inv := by decide

theorem witness_WireBytesTakeTheirRow :
    waiting.rxst ≠ .deliver ∧ fresh.rxst ≠ .deliver ∧ (Instr.lit 0xDC, (0xDC : Byte)) ∈ Spec.offers 0xDC ∧
    (Instr.xesc, (0xDD : Byte)) ∈ Spec.symbolPairs := by decide

theorem witness_TwoByteSymbolsStoreTheirDataByte :
    (inFrame 303).rxst = .inFrame ∧ (inFrame 303).rxidx.toNat < 304 ∧ (inFrame 304).rxst = .inFrame ∧ 304 ≤ (inFrame 304).rxidx.toNat := by
  decide

theorem witness_DroppedBytesChangeNothing : fresh.rxst = .idle ∧ (inFrame 0).rxst = .inFrame ∧ (inFrame 0).rxidx = 0 := by decide

theorem witness_EndOpensFrameAndEscEntersEscape : waiting.rxst = .awaitStart ∧ (inFrame 2).rxst = .inFrame := by decide

theorem witness_AwaitStartDropsUntilEnd :
    waiting.rxst = .awaitStart ∧ (0xDB : Byte) ≠ 0xC0 ∧ waiting.line = [] ∧ (0xC0 : Byte) ∉ [(0x00 : Byte), 0xDB] ∧
    State.turns { waiting with turns := [.rx 0x00, .rx 0xDB] } = [(0x00 : Byte), 0xDB].map .rx ++ [] := by decide

theorem witness_StoreSaturatesAtCapacity : (inFrame 303).rxidx.toNat < 304 ∧ 304 ≤ (inFrame 304).rxidx.toNat := by decide

theorem witness_DataAndEscapesAreStored :
    (inFrame 2).rxst = .inFrame ∧ (0xDC : Byte) ≠ 0xC0 ∧ (0xDC : Byte) ≠ 0xDB ∧ (escaped 2).rxst = .escape := by decide

theorem witness_InvalidEscapeAborts :
    (escaped 3).rxst = .escape ∧ (0xC0 : Byte) ≠ 0xDC ∧ (0xC0 : Byte) ≠ 0xDD ∧ (0xDB : Byte) ≠ 0xDC ∧ (0xDB : Byte) ≠ 0xDD := by decide

theorem witness_EndClosesFrame :
    (inFrame 1).rxst = .inFrame ∧ (inFrame 1).rxidx ≠ 0 ∧ (inFrame 304).rxst = .inFrame ∧ (inFrame 304).rxidx ≠ 0 := by decide

theorem witness_DeliveryWritesLengthAndRaisesMsgReady : 4 ≤ 4 ∧ 4 ≤ 304 ∧ 304 ≤ 304 := by decide

theorem witness_DecoderUndoesEncoder :
    waiting.rxst = .awaitStart ∧ waiting.line = [] ∧ (inFrame 0).rxst = .inFrame ∧ (inFrame 0).rxidx = 0 ∧
    State.turns { waiting with turns := (Spec.onWire [0xC0]).map .rx } = (Spec.onWire [0xC0]).map .rx ++ [] ∧
    State.turns { waiting with turns := (Spec.onWire []).map .rx } = (Spec.onWire []).map .rx ++ [] := by decide

theorem witness_FramedMessageIsDelivered :
    waiting.rxst = .awaitStart ∧ waiting.line = [] ∧ ([] : List Byte).length ≤ 300 ∧
    State.turns { waiting with turns := (Spec.onWire ([0x10, 0x0D] ++ Spec.fcsBytes [0x10, 0x0D])).map .rx } =
      (Spec.onWire ([0x10, 0x0D] ++ Spec.fcsBytes [0x10, 0x0D])).map .rx ++ [] := by decide +kernel

/-- 300 payload bytes that all need escaping. -/
def fullPayload : List Byte := List.replicate 300 0xC0

theorem witness_FramedMessageIsDelivered_longest :
    waiting.rxst = .awaitStart ∧ waiting.line = [] ∧ fullPayload.length = 300 ∧
    State.turns { waiting with turns :=
      (Spec.onWire (0x10 :: 0x0D :: fullPayload ++ Spec.fcsBytes (0x10 :: 0x0D :: fullPayload))).map .rx } =
      (Spec.onWire (0x10 :: 0x0D :: fullPayload ++ Spec.fcsBytes (0x10 :: 0x0D :: fullPayload))).map .rx ++ [] :=
  ⟨rfl, rfl, List.length_replicate, (List.append_nil _).symm⟩

theorem witness_CrcFunctions : 0 < [(0x31 : Byte)].length := by decide

theorem witness_SlipEncodeWritesTxout :
    (Spec.onWire [0xC0]).length ≤ 4 ∧ 3 < (Spec.onWire [0xC0]).length ∧ 3 < fresh.params.txCap := by decide

theorem witness_TxackEmitsOneByte :
    sending.txbusy = true ∧ sending.txwake = 0 ∧ sending.txpos + 1 ≠ sending.txlen ∧ 0 < State.txwake { sending with txwake := 1 } ∧
    State.txpos { sending with txpos := 9 } + 1 = sending.txlen ∧ fresh.txbusy = false := by decide

theorem witness_SendEmitsExactlyItsBytes :
    sending.txbusy = true ∧ sending.txpos < sending.txlen ∧
    State.turns { sending with turns := List.replicate 10 .txAccept } = List.replicate (0 + (10 - 0)) .txAccept ++ [] ∧
    State.turns { sending with turns := [.pseudo .txackAll] } = .pseudo .txackAll :: [] := by decide

theorem witness_MsgWritesTheMessage :
    (1 : Byte).toNat < fresh.params.nbuf ∧ fresh.owner (1 : Byte).toNat = .client ∧ ([] : List Byte).length ≤ 300 ∧
    State.turns { fresh with turns := [.pseudo (.msg 1 0x10 0x0D [])] } = [.pseudo (.msg 1 0x10 0x0D [])] := by decide

theorem witness_MsgWritesTheMessage_longest : fullPayload.length ≤ 300 := Nat.le_of_eq List.length_replicate

theorem witness_RxsOffersItsBytesInOrder :
    waiting.line ++ 0xC0 :: [0x10] = 0xC0 :: [0x10] ∧ Spec.row waiting 0xC0 = some .rxEndAwaitStart ∧ delivered.rxst = .deliver ∧
    delivered.line ++ 0xC0 :: [] = 0xC0 :: [] := by decide

theorem witness_TxackAllRepeatsTxack : fresh.txbusy = false ∧ sending.txbusy = true := by decide

theorem witness_FaultsAreStickyAndTheClients :
    step { waiting with turns := [.memWrite 5 0] } = .next (after (step { waiting with turns := [.memWrite 5 0] })) ∧
    (State.turns { waiting with turns := [.memWrite 5 0] }).head? ≠ some .powerOn ∧
    (after (step { waiting with turns := [.memWrite 5 0] })).faults ≠ waiting.faults ∧
    (State.faults { waiting with faults := ⟨true, true⟩ }).ownership = true ∧
    (State.faults { waiting with faults := ⟨true, true⟩ }).range = true := ⟨step_after _, by decide, by decide, by decide, by decide⟩

theorem witness_EventHistoryIsAppendOnly :
    step { waiting with turns := [.rx 0xC0] } = .next (after (step { waiting with turns := [.rx 0xC0] })) ∧
    (State.turns { waiting with turns := [.rx 0xC0] }).head? ≠ some .powerOn := ⟨step_after _, by decide⟩

theorem witness_OnlyInitAndCrcFailureWriteCrcerr :
    (after (step { waiting with crcerr := 7, turns := [.command 0x1] })).crcerr ≠ 7 ∧
    (after (step { waiting with crcerr := 7, turns := [.powerOn] })).crcerr ≠ 7 ∧
    (after (step { almostBad with turns := [.rx 0xC0] })).crcerr ≠ almostBad.crcerr := by decide +kernel

theorem witness_OnlyReleaseEndsDelivery :
    delivered.msgReady = true ∧ (after (step { delivered with turns := [.command 0x4] })).msgReady = false ∧
    (after (step { delivered with turns := [.powerOn] })).msgReady = false := by decide

theorem witness_OnlyArmingLeavesIdle :
    fresh.rxst = .idle ∧ (after (step { fresh with turns := [.command 0x11] })).rxst ≠ .idle ∧
    (after (step { fresh with turns := [.command 0x12] })).rxst ≠ .idle := by decide

theorem witness_EnginesAreIndependent :
    (State.turns { sending with turns := [.rx 0xC0] }).head? = some (.rx 0xC0) ∧ (Turn.rx 0xC0).agent = .lineRx ∧
    (State.turns { sending with turns := [.txAccept] }).head? = some .txAccept ∧ Turn.txAccept.agent = .lineTx ∧
    305 < Spec.at 1 0 ∧ Spec.at 0 306 ≤ 306 := by decide

theorem witness_SendSnapshotIsStable :
    sending.txbusy = true ∧ (State.turns { sending with turns := [.memWrite 310 0] }).head? = some (.memWrite 310 0) ∧
    (Turn.memWrite 310 0).agent = .client ∧ (Turn.rx 0xC0).agent = .lineRx := by decide

end Sys2Proof.Tests
end

section
/-! PROOFS. The reserved command words of rule R79 (spec/30_encoding.md): the rule's masks and the model's fields name the same bits. -/

namespace Sys2Proof.Machine

/-- A field that is 0 is masked to 0: `n` ones shifted up to bit `lo` are the field's mask. -/
theorem and_fieldMask_eq_zero {w : Word} {lo n : Nat} (h : w.extractLsb' lo n = 0) :
    w &&& (BitVec.allOnes n).setWidth 32 <<< lo = 0 := by
  refine BitVec.eq_of_getLsbD_eq fun i hi => ?_
  by_cases inField : lo ≤ i ∧ i < lo + n
  · have bit := congrArg (BitVec.getLsbD · (i - lo)) h
    have below : i - lo < n := by omega
    have bit_i : w.getLsbD i = false := by simpa [below, inField.1] using bit
    simp [bit_i]
  · have outside : i < lo ∨ ¬ i - lo < n := by omega
    rcases outside with h | h <;> simp [h]

/-- The mask 0xF keeps OP, the number's remainder mod 16. -/
theorem toNat_and_opMask (w : Word) : (w &&& 0xF).toNat = w.toNat % 16 :=
  (BitVec.toNat_and ..).trans (Nat.and_two_pow_sub_one_eq_mod w.toNat 4)

/-- Each of R79's three conditions, written with masks, makes a word reserved. -/
theorem reservedWord_of_masks {w : Word}
    (h : w &&& 0xF = 0 ∨ 4 < (w &&& 0xF).toNat ∨ w &&& 0xE0 ≠ 0 ∨ w &&& 0xFFFF0000 ≠ 0) : reservedWord w = true := by
  rcases h with opZero | opHigh | low | high
  · have := toNat_and_opMask w
    rw [opZero] at this
    exact (reservedWord_iff w).2 (.inl (.inl (by simp at this; omega)))
  · rw [toNat_and_opMask] at opHigh
    exact (reservedWord_iff w).2 (.inl (.inr opHigh))
  · have : w.extractLsb' 5 3 ≠ 0#3 := fun field => low (and_fieldMask_eq_zero field)
    simp [reservedWord, this]
  · have : w.extractLsb' 16 16 ≠ 0#16 := fun field => high (and_fieldMask_eq_zero field)
    simp [reservedWord, this]

/-- R79 and R150: what the command step does with a reserved word. -/
theorem State.commandStep_of_reserved (s : State) {w : Word} (r : reservedWord w = true) :
    s.commandStep w = { s with result := .errOp, events := s.events ++ [.cmd w .errOp] } :=
  if_pos r

theorem exec_cmdReserved (w : Word) (s : State) : exec (.cmdReserved w) s = .next (s.commandStep w) := rfl

theorem exec_wrCmd (w : Word) (s : State) : exec (.wrCmd w) s = .next (s.commandStep w) := rfl

/-- Settles O13: a word with one of R79's conditions is reserved, and both operations are the command step on it. -/
theorem reservedWordGivesErrOp : Obligations.ReservedWordGivesErrOp := by
  intro w s h
  have ends := s.commandStep_of_reserved (reservedWord_of_masks h)
  exact ⟨_, rfl, (exec_cmdReserved w s).trans (congrArg _ ends), (exec_wrCmd w s).trans (congrArg _ ends)⟩

end Sys2Proof.Machine
end

section
/-! PROOFS. The decoder's rules R103 to R114 (spec/40_slip_codec.md): one equation per rule for the step on an offered byte, STORE's bytes
in BMEM, and the registers FRAME_COMPLETE leaves. -/

namespace Sys2Proof.Machine

/-! What the decoder's rows, STORE and FRAME_COMPLETE mean: a row is the decoder step on its byte. -/

theorem exec_rxIdle (d : Byte) (s : State) : exec (.rxIdle d) s = .next (s.rxStep d) := rfl
theorem exec_rxEndAwaitStart (s : State) : exec .rxEndAwaitStart s = .next (s.rxStep wireEND) := rfl
theorem exec_rxEndInFrameStored (s : State) : exec .rxEndInFrameStored s = .next (s.rxStep wireEND) := rfl
theorem exec_rxEndInFrameEmpty (s : State) : exec .rxEndInFrameEmpty s = .next (s.rxStep wireEND) := rfl
theorem exec_rxEscInFrame (s : State) : exec .rxEscInFrame s = .next (s.rxStep wireESC) := rfl
theorem exec_rxDataInFrame (d : Byte) (s : State) : exec (.rxDataInFrame d) s = .next (s.rxStep d) := rfl
theorem exec_rxEscEndEscape (s : State) : exec .rxEscEndEscape s = .next (s.rxStep wireESC_END) := rfl
theorem exec_rxEscEscEscape (s : State) : exec .rxEscEscEscape s = .next (s.rxStep wireESC_ESC) := rfl
theorem exec_rxOtherEscape (d : Byte) (s : State) : exec (.rxOtherEscape d) s = .next (s.rxStep d) := rfl
theorem exec_store (v : Byte) (s : State) : exec (.store v) s = .next (s.storeByte v) := rfl
theorem exec_frameComplete (len : Nat) (s : State) : exec (.frameComplete len) s = .next (s.frameComplete len) := rfl

/-! The step on an offered byte, rule by rule. -/

/-- R104: outside DELIVER the byte is taken, then decoded. -/
theorem State.rxStep_of_ne_deliver (s : State) {d : Byte} (taking : s.rxst ≠ .deliver) :
    s.rxStep d = (Spec.took s d).decodeByte d := by
  rcases s.rxStep_cases d with ⟨holding, _⟩ | ⟨_, decoded⟩
  · exact absurd holding taking
  · exact decoded

/-- R105. -/
theorem State.decodeByte_idle (s : State) {d : Byte} (idle : s.rxst = .idle) : s.decodeByte d = s := by
  simp [State.decodeByte, idle]

/-- R106. -/
theorem State.decodeByte_awaitStart_end (s : State) (waiting : s.rxst = .awaitStart) :
    s.decodeByte wireEND = { s with rxidx := 0, rxst := .inFrame } := by
  simp [State.decodeByte, waiting]

/-- R108. -/
theorem State.decodeByte_inFrame_end_stored (s : State) (inFrame : s.rxst = .inFrame) (nonempty : s.rxidx ≠ 0) :
    s.decodeByte wireEND = s.frameComplete s.rxidx.toNat := by
  simpa [State.decodeByte, inFrame] using fun empty => absurd empty nonempty

/-- R109. -/
theorem State.decodeByte_inFrame_end_empty (s : State) (inFrame : s.rxst = .inFrame) (empty : s.rxidx = 0) :
    s.decodeByte wireEND = s := by
  simp [State.decodeByte, inFrame, empty]

/-- R110. -/
theorem State.decodeByte_inFrame_esc (s : State) (inFrame : s.rxst = .inFrame) :
    s.decodeByte wireESC = { s with rxst := .escape } := by
  have notEnd : wireESC ≠ wireEND := by decide
  simp [State.decodeByte, inFrame, notEnd]

/-- R111. -/
theorem State.decodeByte_inFrame_data (s : State) {d : Byte} (inFrame : s.rxst = .inFrame) (notEnd : d ≠ wireEND)
    (notEsc : d ≠ wireESC) : s.decodeByte d = s.storeByte d := by
  simp [State.decodeByte, inFrame, notEnd, notEsc]

/-- R112. -/
theorem State.decodeByte_escape_escEnd (s : State) (escape : s.rxst = .escape) :
    s.decodeByte wireESC_END = { s.storeByte wireEND with rxst := .inFrame } := by
  simp [State.decodeByte, escape]

/-- R113. -/
theorem State.decodeByte_escape_escEsc (s : State) (escape : s.rxst = .escape) :
    s.decodeByte wireESC_ESC = { s.storeByte wireESC with rxst := .inFrame } := by
  have notEnd : wireESC_ESC ≠ wireESC_END := by decide
  simp [State.decodeByte, escape, notEnd]

/-- R114. -/
theorem State.decodeByte_escape_other (s : State) {d : Byte} (escape : s.rxst = .escape) (notEnd : d ≠ wireESC_END)
    (notEsc : d ≠ wireESC_ESC) : s.decodeByte d = s.abortFrame := by
  simp [State.decodeByte, escape, notEnd, notEsc]

/-- R50, R54: the span of a buffer begins at its byte 2. -/
theorem span_add_eq_at (b : Byte) (n : Nat) : span b + n = Spec.at b (2 + n) := by
  rw [span_eq, Spec.at]
  omega

/-- A state whose BMEM is `s`'s after the writes of `data` from `a` on has `data` there and else what `s` has. -/
theorem stored_of_memWrites {s t : State} {a : Nat} {data : List Byte} (written : t.bmem = (s.memWrites a data).bmem)
    (draws : t.bmemEpoch = s.bmemEpoch) : Spec.stored s t a data := by
  have reads := State.memByte_congr written (draws.trans (s.memWrites_bmemEpoch a data).symm)
  refine ⟨fun k inside => ?_, fun x outside => ?_⟩
  · rw [reads, State.memByte_memWrites_at s a data k inside]
  · rw [reads, State.memByte_memWrites_other s a data outside]

/-- R156: all three cases leave RXIDX 0, and AWAIT_START or DELIVER. -/
theorem State.frameComplete_registers (s : State) (len : Nat) :
    ((s.frameComplete len).rxst = .awaitStart ∨ (s.frameComplete len).rxst = .deliver) ∧ (s.frameComplete len).rxidx = 0 := by
  rcases s.frameComplete_cases len with ⟨_, short⟩ | ⟨_, _, valid⟩ | ⟨_, _, failed⟩
  · rw [short]; exact ⟨.inl rfl, rfl⟩
  · rw [valid, State.deliverMsg_eq]; exact ⟨.inr rfl, rfl⟩
  · rw [failed]; exact ⟨.inl rfl, rfl⟩

/-- Settles O31: R105 and R109 only take the byte. -/
theorem droppedBytesChangeNothing : Obligations.DroppedBytesChangeNothing := by
  refine ⟨fun s d idle => ?_, fun s inFrame empty => ?_⟩
  · rw [exec_rxIdle, s.rxStep_of_ne_deliver (by simp [idle]), (Spec.took s d).decodeByte_idle idle]
  · rw [exec_rxEndInFrameEmpty, s.rxStep_of_ne_deliver (by simp [inFrame]),
      (Spec.took s wireEND).decodeByte_inFrame_end_empty inFrame empty]
    rfl

/-- Settles O32: R106 and R110 are equations of the step. -/
theorem endOpensFrameAndEscEntersEscape : Obligations.EndOpensFrameAndEscEntersEscape := by
  refine ⟨fun s waiting => ?_, fun s inFrame => ?_⟩
  · rw [exec_rxEndAwaitStart, s.rxStep_of_ne_deliver (by simp [waiting]), (Spec.took s wireEND).decodeByte_awaitStart_end waiting]
    rfl
  · rw [exec_rxEscInFrame, s.rxStep_of_ne_deliver (by simp [inFrame]), (Spec.took s wireESC).decodeByte_inFrame_esc inFrame]
    rfl

/-- Settles O36: R114 on the state that took the byte, its two events one list. -/
theorem invalidEscapeAborts : Obligations.InvalidEscapeAborts := by
  intro s d escape notEnd notEsc
  rw [exec_rxOtherEscape, s.rxStep_of_ne_deliver (by simp [escape]),
    (Spec.took s d).decodeByte_escape_other escape notEnd notEsc]
  simp [State.abortFrame, State.emit, Spec.took]

/-- Settles O34: below RX_CAP the one write of STORE lands at the computed address and RXIDX + 1 does not wrap; at RX_CAP there is none. -/
theorem storeSaturatesAtCapacity : Obligations.StoreSaturatesAtCapacity := by
  intro s v
  rcases s.storeByte_cases v with ⟨below, stores⟩ | ⟨full, keeps⟩
  · refine ⟨fun _ => ⟨_, exec_store v s, ?_⟩, fun full => by omega⟩
    rw [stores, span_add_eq_at]
    have counted : (s.rxidx + 1).toNat = s.rxidx.toNat + 1 := by rw [BitVec.toNat_add]; simp; omega
    exact ⟨stored_of_memWrites rfl rfl, rfl, counted⟩
  · exact ⟨fun below => by omega, fun _ => by rw [exec_store, keeps]⟩

/-- Settles O35: R111, R112 and R113 are STORE on the state that took the byte. -/
theorem dataAndEscapesAreStored : Obligations.DataAndEscapesAreStored := by
  refine fun s => ⟨fun d inFrame notEnd notEsc => ⟨_, ?_, exec_store d _⟩,
    fun escape => ⟨⟨_, ?_, exec_store 0xC0 _⟩, ⟨_, ?_, exec_store 0xDB _⟩⟩⟩
  · rw [exec_rxDataInFrame, s.rxStep_of_ne_deliver (by simp [inFrame]),
      (Spec.took s d).decodeByte_inFrame_data inFrame notEnd notEsc]
  · rw [exec_rxEscEndEscape, s.rxStep_of_ne_deliver (by simp [escape]),
      (Spec.took s wireESC_END).decodeByte_escape_escEnd escape]
    rfl
  · rw [exec_rxEscEscEscape, s.rxStep_of_ne_deliver (by simp [escape]),
      (Spec.took s wireESC_ESC).decodeByte_escape_escEsc escape]
    rfl

/-- Settles O37: R108 runs FRAME_COMPLETE on the state that took the END, and each of its cases closes the frame. -/
theorem endClosesFrame : Obligations.EndClosesFrame := by
  intro s inFrame nonempty
  refine ⟨_, ?_, exec_frameComplete s.rxidx.toNat _, State.frameComplete_registers _ _⟩
  rw [exec_rxEndInFrameStored, s.rxStep_of_ne_deliver (by simp [inFrame]),
    (Spec.took s wireEND).decodeByte_inFrame_end_stored inFrame nonempty]
  rfl

end Sys2Proof.Machine
end

section
/-! PROOFS. The commands that arm the decoder (rules R151, R152, R160 of spec/42_hci_transport.md): what their buffer operand means, and the
shape the three share, a refusal or an armed decoder. -/

namespace Sys2Proof.Machine

theorem exec_init (p : Bool) (b : Byte) (s : State) :
    exec (.init p b) s = .next (s.command (commandWord opINIT p b) p b (·.initCmd (bufOperand p b))) := rfl
theorem exec_arm (p : Bool) (b : Byte) (s : State) :
    exec (.arm p b) s = .next (s.command (commandWord opARM p b) p b (·.armCmd (bufOperand p b))) := rfl
theorem exec_release (p : Bool) (b : Byte) (s : State) :
    exec (.release p b) s = .next (s.command (commandWord opRELEASE p b) p b (·.releaseCmd (bufOperand p b))) := rfl

/-- R77, R83: the word of an operation, in the statements' form. -/
theorem commandWord_eq_word (op : BitVec 4) (p : Bool) (b : Byte) : commandWord op p b = Spec.word op.toNat p b :=
  commandWord_eq_ofNat op p b

theorem State.heldByTx_bufOperand (s : State) (p : Bool) (b : Byte) :
    s.heldByTx (bufOperand p b) = true ↔ p = true ∧ s.owner b.toNat = .tx := by
  cases p <;> simp [bufOperand, State.heldByTx]

theorem State.arm_bufOperand (s : State) (p : Bool) (b : Byte) :
    s.arm (bufOperand p b) = { s with rxidx := 0, rxbuf := if p then b else 0, rxst := Spec.armed p } := by
  cases p <;> rfl

/-- R151, R152, R160: a command that answers ERR_STATE when `wrongState` holds or TX owns its buffer, and else arms the decoder in the state
`cleared` (`s`, or `s` with CRCERR 0) and answers OK: its whole command step (R150), the buffer operand in range. -/
theorem State.command_of_arming {s cleared : State} {w : Word} {p : Bool} {b : Byte} {run : State → State} {wrongState : Prop}
    [Decidable wrongState] (inRange : Spec.bufOk s p b)
    (outcome : ((wrongState ∨ s.heldByTx (bufOperand p b) = true) ∧ run s = s.setResult .errState) ∨
      (¬ wrongState ∧ s.heldByTx (bufOperand p b) = false ∧ run s = (cleared.arm (bufOperand p b)).setResult .ok)) :
    s.command w p b run =
      if wrongState ∨ p = true ∧ s.owner b.toNat = .tx then
        { s with result := .errState, events := s.events ++ [.cmd w .errState] }
      else
        { cleared with rxidx := 0, rxbuf := if p then b else 0, rxst := Spec.armed p, result := .ok,
                       events := cleared.events ++ [.cmd w .ok] } := by
  rw [← Bool.not_eq_true, s.heldByTx_bufOperand, State.arm_bufOperand] at outcome
  rcases s.command_cases w p b run with ⟨named, outside, _⟩ | ⟨_, runs⟩
  · exact absurd (inRange named) (by omega)
  rcases outcome with ⟨refused, result⟩ | ⟨rightState, free, result⟩
  · rw [runs, if_pos refused, result]; rfl
  · rw [runs, if_neg (not_or.2 ⟨rightState, free⟩), result]; rfl

/-- Settles O15: INIT is refused in DELIVER, and clears CRCERR where it arms. -/
theorem initResult : Obligations.InitResult := by
  intro s p b inRange
  rw [exec_init, State.command_of_arming inRange (s.initCmd_cases _), commandWord_eq_word]
  rfl

/-- Settles O16: ARM is refused in DELIVER, and arms with CRCERR as it is. -/
theorem armResult : Obligations.ArmResult := by
  intro s p b inRange
  rw [exec_arm, State.command_of_arming inRange (s.armCmd_cases _), commandWord_eq_word]
  rfl

/-- Settles O17: RELEASE is refused outside DELIVER. -/
theorem releaseResult : Obligations.ReleaseResult := by
  intro s p b inRange
  have outcome := (s.releaseCmd_cases (bufOperand p b)).imp_right (And.imp_left not_not_intro)
  rw [exec_release, State.command_of_arming inRange outcome, commandWord_eq_word]
  rfl

end Sys2Proof.Machine
end

section
/-! PROOFS. The register accesses (rules R32 to R36 and R161 to R164): the fields of the STATUS word, and what each access hands over. -/

namespace Sys2Proof.Machine

theorem exec_rdStatus (s : State) : exec .rdStatus s = .next (s.giveBack (.register s.statusWord)) := rfl
theorem exec_rdRxcnt (s : State) : exec .rdRxcnt s = .next (s.giveBack (.register (s.rxidx.setWidth 32))) := rfl
theorem exec_rdCrcerr (s : State) : exec .rdCrcerr s = .next (s.giveBack (.register s.crcerr)) := rfl
theorem exec_rdWrOther_read (k : Byte) (s : State) :
    exec (.rdWrOther (.read k)) s = .next (s.giveBack (.register (s.regWord k))) := rfl
theorem exec_rdWrOther_write (k : Byte) (v : Word) (s : State) :
    exec (.rdWrOther (.write k v)) s = .next (if k == 3 then s.commandStep v else s) := rfl

/-! The fields of STATUS (R32): each bit of a field comes from one of the six parts of the word alone. -/

theorem State.statusWord_rxst (s : State) : s.statusWord.extractLsb' 0 3 = RxState.code s.rxst := by
  refine BitVec.eq_of_getLsbD_eq fun i hi => ?_
  interval_cases i <;> simp [State.statusWord]

theorem State.statusWord_txbusy (s : State) : s.statusWord.getLsbD 3 = s.txbusy := by
  simp [State.statusWord]

theorem State.statusWord_result (s : State) : s.statusWord.extractLsb' 4 3 = ResultCode.code s.result := by
  refine BitVec.eq_of_getLsbD_eq fun i hi => ?_
  interval_cases i <;> simp [State.statusWord]

theorem State.statusWord_rxValid (s : State) : s.statusWord.getLsbD 7 = s.rxValid := by
  simp [State.statusWord]

theorem State.statusWord_rxbuf (s : State) : s.statusWord.extractLsb' 8 8 = s.rxbuf := by
  refine BitVec.eq_of_getLsbD_eq fun i hi => ?_
  interval_cases i <;> simp [State.statusWord]

theorem State.statusWord_txbuf (s : State) : s.statusWord.extractLsb' 16 8 = s.txbuf := by
  refine BitVec.eq_of_getLsbD_eq fun i hi => ?_
  interval_cases i <;> simp [State.statusWord]

theorem State.statusWord_reserved (s : State) : s.statusWord.extractLsb' 24 8 = 0 := by
  refine BitVec.eq_of_getLsbD_eq fun i hi => ?_
  interval_cases i <;> simp [State.statusWord]

/-- A field of a word as a number. -/
theorem toNat_div_mod_of_extractLsb' {w : Word} {lo n : Nat} {field : BitVec n} (h : w.extractLsb' lo n = field) :
    w.toNat / 2 ^ lo % 2 ^ n = field.toNat := by
  rw [← h, BitVec.extractLsb'_toNat, Nat.shiftRight_eq_div_pow]

/-- R35, R36: CMD and the reserved registers. -/
theorem State.regWord_of_three_le (s : State) {k : Byte} (h : 3 ≤ k.toNat) : s.regWord k = 0 := by
  have other : ∀ j : Byte, j.toNat < 3 → ¬ (k == j) = true := fun j below same => by rw [eq_of_beq same] at h; omega
  rw [State.regWord, if_neg (other 0 (by decide)), if_neg (other 1 (by decide)), if_neg (other 2 (by decide))]

/-- Settles O23: the word returned is STATUS, and each clause is one of its fields. -/
theorem rdStatusReturnsFields : Obligations.RdStatusReturnsFields := by
  intro s
  have rxst : s.statusWord.toNat / 1 % 8 = _ := toNat_div_mod_of_extractLsb' s.statusWord_rxst
  have result := toNat_div_mod_of_extractLsb' s.statusWord_result
  have top : s.statusWord.toNat / 16777216 % 256 = 0 := toNat_div_mod_of_extractLsb' s.statusWord_reserved
  refine ⟨s.statusWord, exec_rdStatus s, ?_, s.statusWord_txbusy, result.trans ?_, s.statusWord_rxValid.trans ?_,
    toNat_div_mod_of_extractLsb' s.statusWord_rxbuf, toNat_div_mod_of_extractLsb' s.statusWord_txbuf, ?_⟩
  · rw [← Nat.div_one s.statusWord.toNat, rxst]
    cases s.rxst <;> rfl
  · cases s.result <;> rfl
  · simp [State.rxValid, bne, beq_eq_decide]
  · have below : s.statusWord.toNat < 4294967296 := s.statusWord.isLt
    omega

/-- Settles O24: RXIDX loses nothing when it is widened. -/
theorem rdCountersReturnRegisters : Obligations.RdCountersReturnRegisters := by
  intro s
  have widened : (s.rxidx.setWidth 32).toNat = s.rxidx.toNat := BitVec.toNat_setWidth_of_le (by decide)
  exact ⟨_, _, exec_rdRxcnt s, widened, exec_rdCrcerr s, rfl⟩

/-- Settles O25. -/
theorem otherRegisterAccesses : Obligations.OtherRegisterAccesses := by
  refine fun s k => ⟨fun reserved => ?_, fun v notCmd => ?_⟩
  · rw [exec_rdWrOther_read, s.regWord_of_three_le reserved]; rfl
  · rw [exec_rdWrOther_write, if_neg (by simpa using notCmd)]

end Sys2Proof.Machine
end

section
/-! PROOFS. The CLIENT's accesses to BMEM (rules R165 and R166). -/

namespace Sys2Proof.Machine

theorem exec_ld (a : Nat) (s : State) : exec (.ld a) s = .next (s.clientLoad a) := rfl
theorem exec_st (a : Nat) (v : Byte) (s : State) : exec (.st a v) s = .next (s.clientStore a v) := rfl

/-- Settles O26: the two cases of a load. -/
theorem loadReturnsByteOrFaultsRange : Obligations.LoadReturnsByteOrFaultsRange := by
  intro s a
  rw [exec_ld]
  rcases s.clientLoad_cases a with ⟨outside, loads⟩ | ⟨inside, loads⟩
  · exact ⟨fun inside => by omega, fun _ => congrArg _ loads⟩
  · exact ⟨fun _ => congrArg _ loads, fun outside => by omega⟩

/-- Settles O27: the three cases of a store; both inside BMEM make the same write, and the owner decides the fault. -/
theorem storeWritesByteAndRecordsFaults : Obligations.StoreWritesByteAndRecordsFaults := by
  intro s a v
  rcases s.clientStore_cases a v with ⟨outside, stores⟩ | ⟨inside, owned, stores⟩ | ⟨inside, owned, stores⟩
  · exact ⟨fun inside => by omega, fun _ => by rw [exec_st, stores]; rfl⟩
  · refine ⟨fun _ => ⟨s.memWrite a v, by rw [exec_st, stores], stored_of_memWrites rfl rfl, ?_⟩, fun outside => by omega⟩
    simp [owned, State.memWrite]
  · refine ⟨fun _ => ⟨(s.memWrite a v).faultOwnership, by rw [exec_st, stores], stored_of_memWrites rfl rfl, ?_⟩,
      fun outside => by omega⟩
    simp [owned, State.memWrite, State.faultOwnership]

end Sys2Proof.Machine
end

section
/-! PROOFS. FRAME_COMPLETE and its three cases (rules R156 to R159). -/

namespace Sys2Proof.Machine

theorem exec_frameCompleteShort (len : Nat) (s : State) : exec (.frameCompleteShort len) s = .next (s.discardShort len) := rfl
theorem exec_frameCompleteCrcFail (len : Nat) (s : State) : exec (.frameCompleteCrcFail len) s = .next (s.discardCrc len) := rfl
theorem exec_frameCompleteDeliver (len : Nat) (s : State) : exec (.frameCompleteDeliver len) s = .next (s.deliverMsg len) := rfl

/-- R131: the check compares the complement with 0x0F47, so the register itself with 0xF0B8. -/
theorem crcCheck_iff (data : List Byte) (n : Nat) (seed : U16) :
    crcCheck data n seed = true ↔ crc16 data n seed = 0xF0B8 := by
  have residue : ~~~(0xF0B8 : U16) = crcGood := by decide
  rw [crcCheck, beq_iff_eq, ← residue, BitVec.not_inj]

/-- R54: the stored span of a buffer, in the statements' form. -/
theorem State.memBytes_span (s : State) (b : Byte) (n : Nat) : s.memBytes (span b) n = Spec.bytesFrom s (Spec.at b 2) n := by
  rw [State.memBytes_eq, Spec.bytesFrom, ← span_add_eq_at b 0, Nat.add_zero]

/-- R11: the two bytes of a 16-bit number, low byte first. -/
theorem le16_ofNat (n : Nat) : le16 (BitVec.ofNat 16 n) = [BitVec.ofNat 8 n, BitVec.ofNat 8 (n / 256)] := by
  have low : (BitVec.ofNat 16 n).extractLsb' 0 8 = BitVec.ofNat 8 n := by
    apply BitVec.eq_of_toNat_eq
    simp
  have high : (BitVec.ofNat 16 n).extractLsb' 8 8 = BitVec.ofNat 8 (n / 256) := by
    apply BitVec.eq_of_toNat_eq
    simp [Nat.shiftRight_eq_div_pow]
    omega
  rw [le16, low, high]

/-- Settles O38: the three cases of FRAME_COMPLETE are the conditions on the length and on the check of the stored span. -/
theorem frameCompleteDispatches : Obligations.FrameCompleteDispatches := by
  refine fun s len => ⟨_, exec_frameComplete len s, ?_⟩
  have check : _ ↔ crc16 _ len 0xFFFF = 0xF0B8 := crcCheck_iff (s.memBytes (span s.rxbuf) len) len crcInit
  rw [← s.memBytes_span]
  rcases s.frameComplete_cases len with ⟨short, takes⟩ | ⟨long, good, takes⟩ | ⟨long, bad, takes⟩
  · rw [if_pos short, takes, exec_frameCompleteShort]
  · rw [if_neg (by omega), if_pos (check.1 good), takes, exec_frameCompleteDeliver]
  · rw [if_neg (by omega), if_neg (fun residue => by simp [check.2 residue] at bad), takes, exec_frameCompleteCrcFail]

/-- Settles O39: the two discards, and CRCERR + 1 as a 32-bit number. -/
theorem discardedFramesRearmTheSameBuffer : Obligations.DiscardedFramesRearmTheSameBuffer :=
  fun s len => ⟨exec_frameCompleteShort len s, _, exec_frameCompleteCrcFail len s, rfl, BitVec.toNat_add s.crcerr 1⟩

/-- Settles O40: delivery's writes are LENGTH's two bytes from the head of the buffer on. -/
theorem deliveryWritesLengthAndRaisesMsgReady : Obligations.DeliveryWritesLengthAndRaisesMsgReady := by
  intro s len _ _
  have head : base s.rxbuf = Spec.at s.rxbuf 0 := by rw [base_eq, Spec.at]; omega
  refine ⟨_, exec_frameCompleteDeliver len s, ?_⟩
  rw [State.deliverMsg_eq, le16_ofNat, head]
  exact ⟨rfl, rfl, stored_of_memWrites rfl rfl⟩

end Sys2Proof.Machine
end

section
/-! PROOFS. The priority of a command's result codes (rule R194): the buffer a SEND reads and the frame it encodes in the statements' form,
and what RESULT each command leaves. -/

namespace Sys2Proof.Machine

/-! What SEND reads and encodes (R52, R73, R75, R153). -/

theorem State.lengthOf_eq_lengthField (s : State) (b : Byte) : s.lengthOf b = Spec.lengthField s b := by
  rw [State.lengthOf, Spec.lengthField, Spec.at, Spec.at, base_eq, Nat.mul_comm]
  rfl

theorem State.hdrPayload_eq_message (s : State) (b : Byte) : s.hdrPayload b = Spec.message s b := by
  rw [State.hdrPayload, State.memBytes_span, State.lengthOf_eq_lengthField, hdrSize_eq, Spec.message]

/-- R75: the FCS, low byte first. -/
theorem le16_fcsOf (msg : List Byte) : le16 (fcsOf msg) = Spec.fcsBytes msg := by
  have low (v : U16) : v.extractLsb' 0 8 = v.setWidth 8 := rfl
  have high (v : U16) : v.extractLsb' 8 8 = (v >>> 8).setWidth 8 := rfl
  rw [le16, low, high]; rfl

/-- R101: END, the escaped bytes, END. -/
theorem frameBytes_eq_onWire (src : List Byte) : frameBytes src = Spec.onWire src := by
  have esc : escByte = Spec.esc := by
    funext d
    simp [escByte, Spec.esc, wireEND, wireESC, wireESC_END, wireESC_ESC]
  rw [frameBytes_eq, esc, Spec.onWire]

theorem State.frameBytes_sendFrame (s : State) (b : Byte) : frameBytes (s.sendFrame b) = Spec.sent s b := by
  rw [frameBytes_eq_onWire, State.sendFrame, State.fcs, le16_fcsOf, State.hdrPayload_eq_message, Spec.sent]

/-! RESULT after each command, the first condition that applies. -/

/-- R80, R150: ERR_BUF comes before the command's own conditions. -/
theorem State.command_result (s : State) (w : Word) (p : Bool) (b : Byte) (run : State → State) :
    (s.command w p b run).result = if p = true ∧ s.params.nbuf ≤ b.toNat then .errBuf else (run s).result := by
  rcases s.command_cases w p b run with ⟨named, outside, ends⟩ | ⟨inRange, ends⟩
  · rw [ends, if_pos ⟨named, outside⟩]; rfl
  · rw [ends, if_neg fun ⟨named, outside⟩ => by have := inRange named; omega]; rfl

/-- R151, R152, R160: the commands that arm the decoder look at its state before the buffer's owner. -/
theorem result_of_arming {s t armed : State} {p : Bool} {b : Byte} {wrongState : Prop} [Decidable wrongState]
    (outcome : ((wrongState ∨ s.heldByTx (bufOperand p b) = true) ∧ t = s.setResult .errState) ∨
      (¬ wrongState ∧ s.heldByTx (bufOperand p b) = false ∧ t = armed.setResult .ok)) :
    t.result = if wrongState then .errState else if p = true ∧ s.owner b.toNat = .tx then .errState else .ok := by
  rw [← Bool.not_eq_true, s.heldByTx_bufOperand] at outcome
  rcases outcome with ⟨wrong | held, ends⟩ | ⟨right, free, ends⟩
  · rw [ends, if_pos wrong]; rfl
  · rw [ends, if_pos held, ite_self]; rfl
  · rw [ends, if_neg right, if_neg free]; rfl

/-- R153: SEND's own conditions, both of ERR_LEN's after ERR_STATE's. -/
theorem State.sendCmd_some_result (s : State) (b : Byte) :
    (s.sendCmd (some b)).result =
      if s.txbusy = true ∨ s.owner b.toNat = .rx then .errState
      else if 300 < Spec.lengthField s b ∨ s.params.txCap < (Spec.sent s b).length then .errLen else .ok := by
  rw [← s.lengthOf_eq_lengthField, ← s.frameBytes_sendFrame]
  rcases s.sendCmd_cases b with ⟨refused, ends⟩ | ⟨idle, free, long, ends⟩ | ⟨idle, free, short, ends⟩
  · rw [ends, if_pos refused]; rfl
  · rw [ends, if_neg (by simp [idle, free]), if_pos (.inl long)]; rfl
  · rw [ends, if_neg (by simp [idle, free])]
    rcases s.sendFrom_cases b with ⟨fits, sends⟩ | ⟨tooLong, sends⟩
    · rw [sends, if_neg (by omega)]
    · rw [sends, if_pos (.inr tooLong)]

/-- R194: SEND without a buffer is ERR_NULL; with one, ERR_BUF comes before SEND's own conditions. -/
theorem State.command_send_result (s : State) (w : Word) (p : Bool) (b : Byte) :
    (s.command w p b (·.sendCmd (bufOperand p b))).result =
      if p = false then .errNull
      else if p = true ∧ s.params.nbuf ≤ b.toNat then .errBuf
      else if s.txbusy = true ∨ s.owner b.toNat = .rx then .errState
      else if 300 < Spec.lengthField s b ∨ s.params.txCap < (Spec.sent s b).length then .errLen else .ok := by
  rw [State.command_result]
  cases p
  · rfl
  · rw [if_neg (show ¬ true = false by decide), ← s.sendCmd_some_result]; rfl

/-- Settles O21: a reserved word is ERR_OP; of the other words OP selects one command, and the order's conditions for the other commands
drop out. -/
theorem errorPriority : Obligations.ErrorPriority := by
  intro w s
  refine ⟨_, exec_wrCmd w s, ?_⟩
  have flag : w.getLsbD 4 = cmdP w := rfl
  rw [flag, ← cmdBuf_toNat, ← cmdBuf_eq_ofNat]
  rcases s.commandStep_cases w with ⟨r, ends⟩ | ⟨r, op, ends⟩ | ⟨r, op, ends⟩ | ⟨r, op, ends⟩ | ⟨r, op, ends⟩
  · rw [ends, if_pos ((reservedWord_iff w).1 r)]; rfl
  all_goals
    have valid := mt (reservedWord_iff w).2 (Bool.eq_false_iff.1 r)
    replace op := (cmdOp_eq_iff w _).1 (beq_iff_eq.2 op)
    rw [ends, if_neg valid]
  · rw [State.command_result, result_of_arming (s.initCmd_cases _)]
    simp [op, opINIT]
  · rw [State.command_result, result_of_arming (s.armCmd_cases _)]
    simp [op, opARM]
  · rw [State.command_send_result]
    simp [op, opSEND]
  · have outcome := (s.releaseCmd_cases (bufOperand (cmdP w) (cmdBuf w))).imp_right (And.imp_left not_not_intro)
    rw [State.command_result, result_of_arming outcome]
    simp [op, opRELEASE]

end Sys2Proof.Machine
end

section
/-! PROOFS. Reset (rule R220): what the unwritten bytes of BMEM and TXOUT read as, and the registers after RESET and in the reset state. -/

namespace Sys2Proof.Machine

theorem exec_reset (s : State) : exec .reset s = .next s.powerOn := rfl

/-- R220: with no byte of BMEM written, every byte is a free draw. -/
theorem State.memByte_of_bmem_nil {s : State} (unwritten : s.bmem = []) (a : Nat) : s.memByte a = Config.bmemDraw s.bmemEpoch a := by
  rw [State.memByte, unwritten]; rfl

/-- R27: with no byte of TXOUT written, every byte is a free draw. -/
theorem State.txoutByte_of_txout_nil {s : State} (unwritten : s.txout = []) (i : Nat) :
    s.txoutByte i = Config.txoutDraw s.txoutEpoch i := by
  rw [State.txoutByte, unwritten]; rfl

/-- R32: STATUS reads 0 where each of its fields has its reset value. -/
theorem State.statusWord_of_reset_fields {s : State} (paused : s.rxst = .idle) (notSending : s.txbusy = false) (ok : s.result = .ok)
    (rxbuf : s.rxbuf = 0) (txbuf : s.txbuf = 0) : s.statusWord = 0 := by
  rw [State.statusWord, State.rxValid, paused, notSending, ok, rxbuf, txbuf]
  decide

/-- Settles O1: each register is set to the value R220 names; BMEM and TXOUT keep no written byte, so each of their bytes is a draw. -/
theorem resetSetsSpecValues : Obligations.ResetSetsSpecValues := by
  refine ⟨fun s => ⟨s.powerOn, exec_reset s, ?_⟩, fun p => ?_⟩
  · have draws : ∀ a, s.powerOn.memByte a = _ := State.memByte_of_bmem_nil rfl
    have txoutDraws : ∀ i, s.powerOn.txoutByte i = _ := State.txoutByte_of_txout_nil rfl
    exact ⟨rfl, rfl, rfl, rfl, rfl, rfl, rfl, rfl, rfl, rfl, rfl, rfl, draws, txoutDraws⟩
  · have status : (State.resetWith p).statusWord = 0 := State.statusWord_of_reset_fields rfl rfl rfl rfl rfl
    exact ⟨rfl, status, rfl, rfl, rfl, rfl, rfl, rfl, rfl, State.memByte_of_bmem_nil rfl⟩

end Sys2Proof.Machine
end


section
/-! PROOFS. SEND in full (rule R153), the operand check every command shares (rule R80), and what a command step can do: one list of
outcomes, from which the rules about all commands follow (rules R150, R190, R191). -/

namespace Sys2Proof.Machine

theorem exec_send (p : Bool) (b : Byte) (s : State) :
    exec (.send p b) s = .next (s.command (commandWord opSEND p b) p b (·.sendCmd (bufOperand p b))) := rfl

/-! The operand check. -/

theorem State.command_of_bufOk {s : State} {p : Bool} {b : Byte} (inRange : Spec.bufOk s p b) (w : Word) (run : State → State) :
    s.command w p b run = (run s).emit (.cmd w (run s).result) := by
  rcases s.command_cases w p b run with ⟨named, outside, _⟩ | ⟨_, runs⟩
  · exact absurd (inRange named) (by omega)
  · exact runs

theorem State.command_of_not_bufOk {s : State} {b : Byte} (outside : s.params.nbuf ≤ b.toNat) (w : Word) (run : State → State) :
    s.command w true b run = { s with result := .errBuf, events := s.events ++ [.cmd w .errBuf] } := by
  rcases s.command_cases w true b run with ⟨_, _, ends⟩ | ⟨inRange, _⟩
  · exact ends
  · exact absurd (inRange rfl) (by omega)

theorem bufOk_false (s : State) (b : Byte) : Spec.bufOk s false b := nofun

/-- R80: without P, two command steps that run the same command differ in the word of their event. -/
theorem State.command_false_eq (s : State) (b : Byte) (w w' : Word) {run : State → State} (silent : (run s).events = s.events) :
    s.command w false b run =
      { s.command w' false 0 run with events := s.events ++ [.cmd w (s.command w' false 0 run).result] } := by
  rw [State.command_of_bufOk (bufOk_false s b), State.command_of_bufOk (bufOk_false s 0), ← silent]
  rfl

theorem State.arm_events (s : State) (buf : Option Byte) : (s.arm buf).events = s.events := by cases buf <;> rfl

theorem State.initCmd_events (s : State) (buf : Option Byte) : (s.initCmd buf).events = s.events := by
  rcases s.initCmd_cases buf with ⟨_, ends⟩ | ⟨_, _, ends⟩ <;> rw [ends]
  exacts [rfl, State.arm_events _ buf]

theorem State.armCmd_events (s : State) (buf : Option Byte) : (s.armCmd buf).events = s.events := by
  rcases s.armCmd_cases buf with ⟨_, ends⟩ | ⟨_, _, ends⟩ <;> rw [ends]
  exacts [rfl, s.arm_events buf]

theorem State.releaseCmd_events (s : State) (buf : Option Byte) : (s.releaseCmd buf).events = s.events := by
  rcases s.releaseCmd_cases buf with ⟨_, ends⟩ | ⟨_, _, ends⟩ <;> rw [ends]
  exacts [rfl, s.arm_events buf]

/-- Settles O14: out of range each command ends at the operand check; without P the check and the command look at P alone. -/
theorem bufferOperandChecks : Obligations.BufferOperandChecks := by
  refine fun s b => ⟨fun outside i w member => ?_, fun i j n member => ?_, ?_⟩
  · have ends op := State.command_of_not_bufOk outside (commandWord op true b)
    simp only [List.mem_cons, Prod.mk.injEq, List.not_mem_nil, or_false] at member
    rcases member with ⟨rfl, rfl⟩ | ⟨rfl, rfl⟩ | ⟨rfl, rfl⟩ | ⟨rfl, rfl⟩
    · rw [exec_init, ends, commandWord_eq_word]; rfl
    · rw [exec_arm, ends, commandWord_eq_word]; rfl
    · rw [exec_send, ends, commandWord_eq_word]; rfl
    · rw [exec_release, ends, commandWord_eq_word]; rfl
  · simp only [List.mem_cons, Prod.mk.injEq, List.not_mem_nil, or_false] at member
    rcases member with ⟨rfl, rfl, rfl⟩ | ⟨rfl, rfl, rfl⟩ | ⟨rfl, rfl, rfl⟩
    · refine ⟨_, exec_init false 0 s, ?_⟩
      rw [exec_init, s.command_false_eq b _ _ (s.initCmd_events _), commandWord_eq_word]; rfl
    · refine ⟨_, exec_arm false 0 s, ?_⟩
      rw [exec_arm, s.command_false_eq b _ _ (s.armCmd_events _), commandWord_eq_word]; rfl
    · refine ⟨_, exec_release false 0 s, ?_⟩
      rw [exec_release, s.command_false_eq b _ _ (s.releaseCmd_events _), commandWord_eq_word]; rfl
  · rw [exec_send, State.command_of_bufOk (bufOk_false s b), commandWord_eq_word]; rfl

/-! SEND of a buffer. -/

/-- SEND looks at the buffer: no SEND is in progress, RX does not own it, and its LENGTH is in range (R153). -/
def State.Sendable (s : State) (b : Byte) : Prop := s.txbusy = false ∧ s.owner b.toNat ≠ .rx ∧ Spec.lengthField s b ≤ 300

/-- The state an accepted SEND leaves, its event apart (R153). -/
def State.sending (s : State) (b : Byte) : State :=
  { s with bmem := (s.storeFcs b).bmem
           txout := (Spec.sent s b ++ s.txout.drop (Spec.sent s b).length).take s.params.txCap
           txlen := (Spec.sent s b).length, txpos := 0, txwake := s.params.wakeupCount, txbuf := b, txbusy := true, result := .ok }

/-- The state a SEND leaves whose frame does not fit TX_CAP, its event apart (R101, R153). -/
def State.sendOverflow (s : State) (b : Byte) : State :=
  { s with bmem := (s.storeFcs b).bmem, txout := [], txoutEpoch := s.txoutEpoch + 1, result := .errLen }

/-- R153: SEND's answers in the order of its conditions, the frame in the statements' form. -/
theorem State.sendCmd_outcome (s : State) (b : Byte) :
    ((s.txbusy = true ∨ s.owner b.toNat = .rx) ∧ s.sendCmd (some b) = s.setResult .errState) ∨
      (s.txbusy = false ∧ s.owner b.toNat ≠ .rx ∧ 300 < Spec.lengthField s b ∧ s.sendCmd (some b) = s.setResult .errLen) ∨
      (s.Sendable b ∧ (Spec.sent s b).length ≤ s.params.txCap ∧ s.sendCmd (some b) = s.sending b) ∨
      (s.Sendable b ∧ s.params.txCap < (Spec.sent s b).length ∧ s.sendCmd (some b) = s.sendOverflow b) := by
  have stored : s.storeFcs b = { s with bmem := (s.storeFcs b).bmem } := s.memWrites_eq _ _
  have cases := s.sendCmd_cases b
  rw [s.lengthOf_eq_lengthField] at cases
  rcases cases with refused | long | ⟨idle, free, short, sends⟩
  · exact .inl refused
  · exact .inr (.inl long)
  have outcome := s.sendFrom_cases b
  rw [s.frameBytes_sendFrame, ← sends, stored] at outcome
  rcases outcome with ⟨fits, ends⟩ | ⟨tooLong, ends⟩
  · exact .inr (.inr (.inl ⟨⟨idle, free, short⟩, fits, ends⟩))
  · exact .inr (.inr (.inr ⟨⟨idle, free, short⟩, tooLong, ends⟩))

/-- R53: the FCS lies in the two bytes after the payload. -/
theorem State.storeFcs_eq (s : State) (b : Byte) :
    s.storeFcs b = s.memWrites (Spec.at b (4 + Spec.lengthField s b)) (Spec.fcsBytes (Spec.message s b)) := by
  have head : base b + lengthSize + hdrSize + Spec.lengthField s b = Spec.at b (4 + Spec.lengthField s b) := by
    rw [base_eq, Spec.at, lengthSize_eq, hdrSize_eq]; omega
  rw [State.storeFcs, State.fcs, le16_fcsOf, s.hdrPayload_eq_message, s.lengthOf_eq_lengthField, head]

theorem stored_of_storeFcs {s t : State} {b : Byte} (written : t.bmem = (s.storeFcs b).bmem) (draws : t.bmemEpoch = s.bmemEpoch) :
    Spec.stored s t (Spec.at b (4 + Spec.lengthField s b)) (Spec.fcsBytes (Spec.message s b)) := by
  rw [s.storeFcs_eq] at written
  exact stored_of_memWrites written draws

/-- R80, R83, R150: SEND of a buffer of the block is `sendCmd` and its event. -/
theorem exec_send_of_lt {s : State} {b : Byte} (inRange : b.toNat < s.params.nbuf) :
    exec (.send true b) s =
      .next ((s.sendCmd (some b)).emit (.cmd (Spec.word 3 true b) (s.sendCmd (some b)).result)) := by
  rw [exec_send, State.command_of_bufOk (fun _ => inRange), commandWord_eq_word]; rfl

/-- Settles O18: the two answers of SEND before its FCS store. -/
theorem sendRefusedChangesOnlyResult : Obligations.SendRefusedChangesOnlyResult := by
  intro s b inRange
  rw [exec_send_of_lt inRange]
  rcases s.sendCmd_outcome b with ⟨refused, ends⟩ | ⟨idle, free, long, ends⟩ | ⟨⟨idle, free, short⟩, _⟩ | ⟨⟨idle, free, short⟩, _⟩
  · rw [ends]
    exact ⟨fun _ => rfl, fun idle free => by simp [idle, free] at refused⟩
  · rw [ends]
    exact ⟨fun refused => by simp [idle, free] at refused, fun _ _ _ => rfl⟩
  all_goals exact ⟨fun refused => by simp [idle, free] at refused, fun _ _ long => by omega⟩

/-! TXOUT after the encoder's writes (R27, R101). -/

theorem State.txoutByte_of_encoded {s t : State} {out : List Byte} (draws : t.txoutEpoch = s.txoutEpoch)
    (written : t.txout = (out ++ s.txout.drop out.length).take s.params.txCap) :
    (∀ i (h : i < out.length), i < s.params.txCap → t.txoutByte i = out[i]) ∧
      ∀ i, out.length ≤ i → i < s.params.txCap → t.txoutByte i = s.txoutByte i := by
  refine ⟨fun i inside below => ?_, fun i outside below => ?_⟩
  · rw [State.txoutByte, written, List.getElem?_take_of_lt below, List.getElem?_append_left inside, List.getElem?_eq_getElem inside]
    rfl
  · rw [State.txoutByte, State.txoutByte, written, draws, List.getElem?_take_of_lt below, List.getElem?_append_right outside,
      List.getElem?_drop, Nat.add_sub_cancel' outside]

/-- Settles O19: the accepted SEND. -/
theorem sendAcceptedEncodesFrame : Obligations.SendAcceptedEncodesFrame := by
  intro s b inRange idle free short fits
  refine ⟨_, exec_send_of_lt inRange, ?_⟩
  rcases s.sendCmd_outcome b with ⟨refused, _⟩ | ⟨_, _, long, _⟩ | ⟨_, _, ends⟩ | ⟨_, tooLong, _⟩
  · simp [idle, free] at refused
  · omega
  · rw [ends]
    have ⟨encoded, kept⟩ := State.txoutByte_of_encoded (s := s) (t := s.sending b) rfl rfl
    exact ⟨rfl, stored_of_storeFcs rfl rfl, fun i h => encoded i h (by omega), kept⟩
  · omega

/-- Settles O20: the SEND that does not fit. -/
theorem sendTooLongForTxoutStoresFcsOnly : Obligations.SendTooLongForTxoutStoresFcsOnly := by
  intro s b inRange idle free short tooLong
  refine ⟨_, exec_send_of_lt inRange, ?_⟩
  rcases s.sendCmd_outcome b with ⟨refused, _⟩ | ⟨_, _, long, _⟩ | ⟨_, fits, _⟩ | ⟨_, _, ends⟩
  · simp [idle, free] at refused
  · omega
  · omega
  · rw [ends]
    exact ⟨rfl, stored_of_storeFcs rfl rfl, Nat.succ_ne_self _, State.txoutByte_of_txout_nil rfl⟩

/-! The outcomes of a command step. -/

/-- INIT, ARM or RELEASE, by the word's OP, in a state in which it arms the decoder, and the CRCERR it leaves (R151, R152, R160). -/
def State.MayArm (s : State) (w : Word) (crcerr : Word) : Prop :=
  (cmdOp w = opINIT ∧ s.rxst ≠ .deliver ∧ crcerr = 0) ∨ (cmdOp w = opARM ∧ s.rxst ≠ .deliver ∧ crcerr = s.crcerr) ∨
    (cmdOp w = opRELEASE ∧ s.rxst = .deliver ∧ crcerr = s.crcerr)

/-- What the command step on `w` leaves in state `s`: an error with nothing done, an armed (or paused) decoder, a SEND in progress, or the
SEND whose frame does not fit (R150 to R153, R160, R190, R191). -/
inductive State.CommandOutcome (s : State) (w : Word) : State → Prop
  | refused {c : ResultCode} (error : c ≠ .ok) (early : c = .errLen → 300 < Spec.lengthField s (cmdBuf w)) :
      CommandOutcome s w { s with result := c, events := s.events ++ [.cmd w c] }
  | arms {crcerr : Word} (mayArm : s.MayArm w crcerr) (inRange : Spec.bufOk s (cmdP w) (cmdBuf w))
      (free : ¬ (cmdP w = true ∧ s.owner (cmdBuf w).toNat = .tx)) :
      CommandOutcome s w { s with crcerr := crcerr, rxidx := 0, rxbuf := if cmdP w then cmdBuf w else 0, rxst := Spec.armed (cmdP w)
                                  result := .ok, events := s.events ++ [.cmd w .ok] }
  | sends (inRange : (cmdBuf w).toNat < s.params.nbuf) (sendable : s.Sendable (cmdBuf w))
      (fits : (Spec.sent s (cmdBuf w)).length ≤ s.params.txCap) :
      CommandOutcome s w ((s.sending (cmdBuf w)).emit (.cmd w .ok))
  | overflows (inRange : (cmdBuf w).toNat < s.params.nbuf) (sendable : s.Sendable (cmdBuf w)) :
      CommandOutcome s w ((s.sendOverflow (cmdBuf w)).emit (.cmd w .errLen))

/-- An INIT, ARM or RELEASE is refused, or arms the decoder. -/
theorem State.commandOutcome_of_arming {s cleared : State} {w crcerr : Word} {run : State → State} {wrongState : Prop}
    (clears : cleared = { s with crcerr := crcerr }) (mayArm : ¬ wrongState → s.MayArm w crcerr)
    (outcome : ((wrongState ∨ s.heldByTx (bufOperand (cmdP w) (cmdBuf w)) = true) ∧ run s = s.setResult .errState) ∨
      (¬ wrongState ∧ s.heldByTx (bufOperand (cmdP w) (cmdBuf w)) = false ∧
        run s = (cleared.arm (bufOperand (cmdP w) (cmdBuf w))).setResult .ok)) :
    s.CommandOutcome w (s.command w (cmdP w) (cmdBuf w) run) := by
  classical
  subst clears
  by_cases inRange : Spec.bufOk s (cmdP w) (cmdBuf w)
  · rw [State.command_of_arming inRange outcome]
    split
    · exact .refused nofun nofun
    · rename_i accepted
      obtain ⟨rightState, free⟩ := not_or.1 accepted
      exact .arms (mayArm rightState) inRange free
  · rcases s.command_cases w (cmdP w) (cmdBuf w) run with ⟨_, _, ends⟩ | ⟨inRange', _⟩
    · rw [ends]; exact .refused nofun nofun
    · exact absurd inRange' inRange

/-- A SEND has no buffer, is refused, is accepted, or does not fit. -/
theorem State.commandOutcome_of_send (s : State) (w : Word) :
    s.CommandOutcome w (s.command w (cmdP w) (cmdBuf w) (·.sendCmd (bufOperand (cmdP w) (cmdBuf w)))) := by
  rcases s.command_cases w (cmdP w) (cmdBuf w) (·.sendCmd (bufOperand (cmdP w) (cmdBuf w))) with ⟨_, _, ends⟩ | ⟨inRange, ends⟩
  · rw [ends]; exact .refused nofun nofun
  rw [ends]
  cases named : cmdP w with
  | false => exact .refused (c := .errNull) nofun nofun
  | true =>
    replace inRange := inRange named
    rw [show bufOperand true (cmdBuf w) = some (cmdBuf w) from rfl]
    rcases s.sendCmd_outcome (cmdBuf w) with ⟨_, ends⟩ | ⟨_, _, long, ends⟩ | ⟨sendable, fits, ends⟩ | ⟨sendable, _, ends⟩ <;> rw [ends]
    · exact .refused nofun nofun
    · exact .refused nofun fun _ => long
    · exact .sends inRange sendable fits
    · exact .overflows inRange sendable

/-- Every command step has one of the outcomes. -/
theorem State.commandStep_outcome (s : State) (w : Word) : s.CommandOutcome w (s.commandStep w) := by
  rcases s.commandStep_cases w with ⟨_, ends⟩ | ⟨_, op, ends⟩ | ⟨_, op, ends⟩ | ⟨_, op, ends⟩ | ⟨_, op, ends⟩ <;> rw [ends]
  · exact .refused nofun nofun
  · exact State.commandOutcome_of_arming rfl (fun rightState => .inl ⟨op, rightState, rfl⟩) (s.initCmd_cases _)
  · exact State.commandOutcome_of_arming rfl (fun rightState => .inr (.inl ⟨op, rightState, rfl⟩)) (s.armCmd_cases _)
  · exact s.commandOutcome_of_send w
  · exact State.commandOutcome_of_arming rfl (fun rightState => .inr (.inr ⟨op, not_not.1 rightState, rfl⟩))
      ((s.releaseCmd_cases _).imp_right (And.imp_left not_not_intro))

/-- R40, R150: a command step appends its event, with the result it leaves. -/
theorem State.CommandOutcome.events_eq {s t : State} {w : Word} (outcome : s.CommandOutcome w t) :
    t.events = s.events ++ [.cmd w t.result] := by
  cases outcome <;> rfl

/-- Settles O12: both operations are the command step on the word, which appends its event. -/
theorem writingCmdRunsTheCommand : Obligations.WritingCmdRunsTheCommand :=
  fun w s => ⟨_, exec_wrCmd w s, exec_decodeCommand w s, (s.commandStep_outcome w).events_eq⟩

/-- Settles O22: of the outcomes with an error, only the SEND that does not fit writes more than RESULT and the history. -/
theorem commandErrorsChangeNothingElse : Obligations.CommandErrorsChangeNothingElse := by
  intro w s
  refine ⟨_, exec_wrCmd w s, ?_⟩
  rw [← cmdBuf_eq_ofNat]
  have outcome := s.commandStep_outcome w
  generalize s.commandStep w = t at outcome ⊢
  cases outcome with
  | refused error early =>
    exact ⟨fun _ _ => rfl, fun len _ => by cases len; rfl, fun len short => absurd (early len) (by omega)⟩
  | arms => exact ⟨fun error => absurd rfl error, nofun, nofun⟩
  | sends => exact ⟨fun error => absurd rfl error, nofun, nofun⟩
  | overflows _ sendable =>
    obtain ⟨_, _, short⟩ := sendable
    exact ⟨fun _ other => absurd rfl other, fun _ long => absurd short (by omega),
      fun _ _ => ⟨rfl, stored_of_storeFcs rfl rfl⟩⟩

end Sys2Proof.Machine
end


section
/-! PROOFS. What one step can do to the block, agent by agent (rule R12), and the frames of the two engines' operations. -/

namespace Sys2Proof.Machine

/-- What the step of an agent leaves of the state `s`, in which that step's turn is gone and LINE_RX's bytes and the turns to come are
already those after the step. -/
inductive State.Effect (s : State) : Agent → State → Prop
  | waits (a : Agent) : Effect s a s
  | command (w : Word) : Effect s .client (s.commandStep w)
  | reads (v : Returned) : Effect s .client (s.giveBack v)
  | loads (a : Nat) : Effect s .client (s.clientLoad a)
  | stores (a : Nat) (v : Byte) : Effect s .client (s.clientStore a v)
  | takes (d : Byte) (taking : s.rxst ≠ .deliver) : Effect s .lineRx ((s.emit (.rxIn d)).decodeByte d)
  | accepts : Effect s .lineTx s.txackStep
  | resets : Effect s .power s.powerOn

/-- The effect of an agent's step, with the lists the step leaves; only a step of LINE_RX changes LINE_RX's bytes. -/
def State.EffectUpToLists (s : State) (a : Agent) (t : State) : Prop :=
  ∃ line turns, (a = .lineRx ∨ line = s.line) ∧ ({ s with line := line, turns := turns } : State).Effect a t

theorem State.Effect.upToLists {s t : State} {a : Agent} (h : s.Effect a t) : s.EffectUpToLists a t :=
  ⟨s.line, s.turns, .inr rfl, h⟩

theorem State.EffectUpToLists.of_turns {s t : State} {a : Agent} {turns : List Turn}
    (h : ({ s with turns := turns } : State).EffectUpToLists a t) : s.EffectUpToLists a t := h

theorem State.EffectUpToLists.of_lineRx {s t : State} {line : List Byte} {turns : List Turn}
    (h : ({ s with line := line, turns := turns } : State).EffectUpToLists .lineRx t) : s.EffectUpToLists .lineRx t := by
  obtain ⟨line, turns, _, effect⟩ := h
  exact ⟨line, turns, .inl rfl, effect⟩

theorem State.offerLine_effect (s : State) : s.EffectUpToLists .lineRx s.offerLine := by
  rcases s.offerLine_cases with ⟨_, keeps⟩ | ⟨d, rest, _, taking, takes⟩
  · rw [keeps]; exact (Effect.waits _).upToLists
  · rw [takes]; exact ⟨rest, s.turns, .inl rfl, .takes d taking⟩

theorem State.rxSequence_effect (s : State) (data : List Byte) : s.EffectUpToLists .lineRx (s.rxSequence data) := by
  cases data with
  | nil => exact (Effect.waits _).upToLists
  | cons d ds => exact (State.offerLine_effect { s.queueTurns _ with line := s.line ++ d :: ds }).of_lineRx

theorem State.storeSequence_effect (s : State) (a : Nat) (data : List Byte) :
    s.EffectUpToLists .client (s.storeSequence a data) := by
  cases data with
  | nil => exact (Effect.waits _).upToLists
  | cons v vs => exact (Effect.stores (s := s.queueTurns (storeTurns (a + 1) vs)) a v).upToLists.of_turns

/-- TXACK does not look at the turns to come. -/
theorem State.txackStep_queueTurns (s : State) (ts : List Turn) : (s.queueTurns ts).txackStep = s.txackStep.queueTurns ts := by
  rcases s.txackStep_cases with ⟨b, e⟩ | ⟨b, w, e⟩ | ⟨b, w, p, e⟩ | ⟨b, w, p, e⟩ <;> rw [e]
  · simp [State.txackStep, State.txValid, b]
  · simp [State.txackStep, State.txValid, b, w, State.emit, State.queueTurns]
  · simp [State.txackStep, State.txValid, b, w, p, State.emit, State.queueTurns, State.txoutByte]
  · simp [State.txackStep, State.txValid, b, w, p, State.emit, State.queueTurns, State.txoutByte, State.completeSend]

theorem State.txackRepeat_effect (s : State) : s.EffectUpToLists .lineTx s.txackRepeat := by
  unfold State.txackRepeat
  split
  · exact (Effect.waits _).upToLists
  split
  · rw [← s.txackStep_queueTurns]; exact Effect.accepts.upToLists.of_turns
  · exact Effect.accepts.upToLists

/-- R84: PAUSE is the command step on the word of `ARM none`. -/
theorem State.pause_eq_commandStep (s : State) :
    s.command (commandWord opARM false 0) false 0 (fun t => t.armCmd none) = s.commandStep (commandWord opARM false 0) :=
  Host.Outcome.next.inj (exec_decodeCommand (commandWord opARM false 0) s)

theorem State.pseudo_effect (s : State) (p : Pseudo) : s.EffectUpToLists (Turn.pseudo p).agent (s.runTurn (.pseudo p)) := by
  cases p with
  | pause => exact (s.pause_eq_commandStep ▸ Effect.command _ : s.Effect .client (s.command _ _ _ _)).upToLists
  | setlen buf n => exact s.storeSequence_effect (base buf) (le16 n)
  | fill buf off data => exact s.storeSequence_effect (base buf + off) data
  | msg buf sap mid payload =>
    exact s.storeSequence_effect (base buf) (le16 (BitVec.ofNat 16 payload.length) ++ sap :: mid :: payload)
  | rxs data => exact s.rxSequence_effect data
  | txackAll => exact s.txackRepeat_effect

theorem State.runTurn_effect (s : State) (turn : Turn) : s.EffectUpToLists turn.agent (s.runTurn turn) := by
  cases turn with
  | command w => exact (Effect.command w).upToLists
  | regRead k => exact (Effect.reads _).upToLists
  | regWrite k v =>
    by_cases cmd : (k == 3) = true
    · have runs : s.runTurn (.regWrite k v) = s.commandStep v := if_pos cmd
      rw [runs]; exact (Effect.command v).upToLists
    · have runs : s.runTurn (.regWrite k v) = s := if_neg cmd
      rw [runs]; exact (Effect.waits _).upToLists
  | memRead a => exact (Effect.loads a).upToLists
  | memWrite a v => exact (Effect.stores a v).upToLists
  | rx d => exact (State.offerLine_effect { s with line := s.line ++ [d] }).of_lineRx
  | rxHeld => exact s.offerLine_effect
  | txAccept => exact Effect.accepts.upToLists
  | powerOn => exact Effect.resets.upToLists
  | pseudo p => exact s.pseudo_effect p

/-- A step without a turn changes nothing; a step with one is its agent's effect. -/
theorem step_effect {s t : State} (h : step s = .next t) :
    (s.turns = [] ∧ t = s) ∨ ∃ turn, s.turns.head? = some turn ∧ s.EffectUpToLists turn.agent t := by
  rcases step_cases h with noTurn | ⟨turn, rest, ht, rfl⟩
  · exact .inl noTurn
  · exact .inr ⟨turn, by rw [ht]; rfl, State.runTurn_effect { s with turns := rest } turn⟩

theorem Turn.agent_eq_power {turn : Turn} (h : turn.agent = .power) : turn = .powerOn := by
  cases turn with
  | pseudo p => cases p <;> cases h
  | powerOn => rfl
  | _ => cases h

/-! The frames of the two engines' operations. -/

/-- R103. -/
theorem State.storeByte_frame (s : State) (v : Byte) :
    s.storeByte v = { s with rxidx := (s.storeByte v).rxidx, bmem := (s.storeByte v).bmem } := by
  rcases s.storeByte_cases v with ⟨_, e⟩ | ⟨_, e⟩ <;> rw [e]
  rfl

/-- R156 to R159. -/
theorem State.frameComplete_frame (s : State) (len : Nat) :
    s.frameComplete len = { s with rxst := (s.frameComplete len).rxst, rxidx := (s.frameComplete len).rxidx
                                   crcerr := (s.frameComplete len).crcerr, bmem := (s.frameComplete len).bmem
                                   events := (s.frameComplete len).events } := by
  rcases s.frameComplete_cases len with ⟨_, e⟩ | ⟨_, _, e⟩ | ⟨_, _, e⟩ <;> rw [e]
  · rfl
  · rw [State.deliverMsg_eq]
  · rfl

/-- What a taken byte does: an END completes a frame, or the decoder moves and stores at most one byte (R105 to R114). -/
theorem State.decodeByte_outcome (s : State) (d : Byte) (taking : s.rxst ≠ .deliver) :
    (d = 0xC0 ∧ ∃ n, s.decodeByte d = s.frameComplete n) ∨
      ∃ bmem st idx l, (bmem = s.bmem ∨ ∃ v, bmem = (s.storeByte v).bmem) ∧
        s.decodeByte d = { s with rxst := st, rxidx := idx, bmem := bmem, events := s.events ++ l } := by
  have keeps (e : s.decodeByte d = s) : s.decodeByte d =
      { s with rxst := s.rxst, rxidx := s.rxidx, bmem := s.bmem, events := s.events ++ [] } := by rw [e, List.append_nil]
  rcases s.decodeByte_cases d taking with ⟨_, e⟩ | ⟨_, _, e⟩ | ⟨_, _, e⟩ | ⟨_, _, _, e⟩ | ⟨_, isEnd, _, e⟩ | ⟨_, _, e⟩ | ⟨_, _, _, e⟩ |
    ⟨_, _, e⟩ | ⟨_, _, e⟩ | ⟨_, _, _, e⟩
  · exact .inr ⟨_, _, _, _, .inl rfl, keeps e⟩
  · exact .inr ⟨_, _, _, [], .inl rfl, by rw [e, List.append_nil]⟩
  · exact .inr ⟨_, _, _, _, .inl rfl, keeps e⟩
  · exact .inr ⟨_, _, _, _, .inl rfl, keeps e⟩
  · exact .inl ⟨isEnd, _, e⟩
  · exact .inr ⟨_, _, _, [], .inl rfl, by rw [e, List.append_nil]⟩
  · exact .inr ⟨_, _, _, [], .inr ⟨d, rfl⟩, by rw [e, List.append_nil]; exact s.storeByte_frame d⟩
  · exact .inr ⟨_, _, _, [], .inr ⟨0xC0, rfl⟩, by rw [e, List.append_nil, s.storeByte_frame]⟩
  · exact .inr ⟨_, _, _, [], .inr ⟨0xDB, rfl⟩, by rw [e, List.append_nil, s.storeByte_frame]⟩
  · exact .inr ⟨_, _, _, _, .inl rfl, e⟩

/-- The decoder's rules change these five fields alone (R105 to R114). -/
theorem State.decodeByte_frame (s : State) (d : Byte) :
    s.decodeByte d = { s with rxst := (s.decodeByte d).rxst, rxidx := (s.decodeByte d).rxidx, crcerr := (s.decodeByte d).crcerr
                              bmem := (s.decodeByte d).bmem, events := (s.decodeByte d).events } := by
  by_cases holding : s.rxst = .deliver
  · have keeps : s.decodeByte d = s := by simp [State.decodeByte, holding]
    rw [keeps]
  · rcases s.decodeByte_outcome d holding with ⟨_, n, e⟩ | ⟨_, _, _, _, _, e⟩ <;> rw [e]
    exact s.frameComplete_frame n

end Sys2Proof.Machine
end


section
/-! PROOFS. The invariant (rules R20 to R30, R38, R50): it holds at reset, and the block's part of every step keeps it. -/

namespace Sys2Proof.Machine

/-! Ownership under the invariant. -/

/-- R38: in a state of the invariant TX owns the buffer it sends, whatever RX is armed with. -/
theorem State.Inv.owner_eq_tx_iff {s : State} (inv : s.Inv) (b : Byte) : s.owner b.toNat = .tx ↔ s.txbusy = true ∧ s.txbuf = b := by
  obtain ⟨_, _, _, _, apart⟩ := inv
  rw [State.owner_eq_tx_iff, BitVec.toNat_inj, BitVec.toNat_inj]
  refine ⟨And.right, fun ⟨busy, same⟩ => ⟨fun ⟨armed, rx⟩ => apart armed busy (rx.trans same.symm), busy, same⟩⟩

theorem armed_iff (st : RxState) : RxState.armed st = true ↔ st = .awaitStart ∨ st = .inFrame ∨ st = .escape := by
  cases st <;> simp [RxState.armed]

/-- Settles O28. -/
theorem ownerOfBuffer : Obligations.OwnerOfBuffer := by
  refine fun s b inv => ⟨?_, inv.owner_eq_tx_iff b⟩
  rw [State.owner_eq_rx_iff, armed_iff, BitVec.toNat_inj]

/-! BMEM. -/

/-- R50, in the statements' form. -/
theorem base_add_eq_at (b : Byte) (off : Nat) : base b + off = Spec.at b off := by rw [base_eq, Spec.at, Nat.mul_comm]

theorem base_eq_at (b : Byte) : base b = Spec.at b 0 := by rw [← base_add_eq_at, Nat.add_zero]

/-- R50: the bytes of a buffer of the block lie inside BMEM. -/
theorem at_add_le_bmemSize {b : Byte} {p : Params} (inRange : b.toNat < p.nbuf) {off len : Nat} (inside : off + len ≤ 306) :
    Spec.at b off + len ≤ bmemSize p := by
  have : bmemSize p = p.nbuf * 306 := rfl
  rw [this, Spec.at]
  omega

/-- Writes inside a buffer of the block keep BMEM canonical and in range. -/
theorem State.memoryOk_of_memWrites {s t : State} {b : Byte} {off : Nat} {data : List Byte} (ok : s.memoryOk)
    (inRange : b.toNat < s.params.nbuf) (inside : off + data.length ≤ 306)
    (written : t.bmem = (s.memWrites (Spec.at b off) data).bmem) (same : t.params = s.params) : t.memoryOk := by
  rw [State.memoryOk, written, same]
  exact s.memoryOk_memWrites _ data _ (at_add_le_bmemSize inRange inside) ok.1 ok.2

theorem State.clientStore_memoryOk {s : State} (ok : s.memoryOk) (a : Nat) (v : Byte) : (s.clientStore a v).memoryOk := by
  have written (inside : a < s.params.nbuf * 306) := s.memoryOk_memWrites a [v] (bmemSize s.params) inside ok.1 ok.2
  rcases s.clientStore_cases a v with ⟨_, e⟩ | ⟨inside, _, e⟩ | ⟨inside, _, e⟩ <;> rw [e]
  · exact ok
  · exact written inside
  · exact written inside

/-- R103: STORE writes inside the armed buffer. -/
theorem State.storeByte_memoryOk {s : State} (ok : s.memoryOk) (inRange : s.rxbuf.toNat < s.params.nbuf) (v : Byte) :
    (s.storeByte v).memoryOk := by
  rcases s.storeByte_cases v with ⟨below, e⟩ | ⟨_, e⟩ <;> rw [e]
  · rw [span_add_eq_at]
    exact State.memoryOk_of_memWrites ok inRange (data := [v]) (by simp only [List.length_singleton]; omega) rfl rfl
  · exact ok

/-- R159: delivery writes the two LENGTH bytes of the armed buffer. -/
theorem State.frameComplete_memoryOk {s : State} (ok : s.memoryOk) (inRange : s.rxbuf.toNat < s.params.nbuf) (len : Nat) :
    (s.frameComplete len).memoryOk := by
  rcases s.frameComplete_cases len with ⟨_, e⟩ | ⟨_, _, e⟩ | ⟨_, _, e⟩ <;> rw [e]
  · exact ok
  · rw [State.deliverMsg_eq, base_eq_at]
    exact State.memoryOk_of_memWrites (s := { s with rxidx := 0 }) ok inRange (by simp) rfl rfl
  · exact ok

/-- R53: the FCS of a payload of at most 300 bytes lies inside its buffer. -/
theorem State.storeFcs_memoryOk {s t : State} {b : Byte} (ok : s.memoryOk) (inRange : b.toNat < s.params.nbuf)
    (short : Spec.lengthField s b ≤ 300) (written : t.bmem = (s.storeFcs b).bmem) (same : t.params = s.params) : t.memoryOk := by
  rw [s.storeFcs_eq] at written
  exact State.memoryOk_of_memWrites ok inRange (by simp only [Spec.fcsBytes, List.length_cons, List.length_nil]; omega) written same

/-! The receive registers. -/

theorem State.storeByte_rxidx {s : State} (bounded : s.rxidx.toNat ≤ 304) (v : Byte) :
    (s.storeByte v).rxidx.toNat = min (s.rxidx.toNat + 1) 304 := by
  rcases s.storeByte_cases v with ⟨below, e⟩ | ⟨full, e⟩ <;> rw [e]
  · have counted : (s.rxidx + 1).toNat = s.rxidx.toNat + 1 := by rw [BitVec.toNat_add]; simp; omega
    exact counted.trans (by omega)
  · omega

theorem State.storeByte_rxidx_le {s : State} (bounded : s.rxidx.toNat ≤ 304) (v : Byte) : (s.storeByte v).rxidx.toNat ≤ 304 :=
  (State.storeByte_rxidx bounded v).trans_le (Nat.min_le_right _ _)

/-- The decoder at work keeps the invariant when it keeps BMEM's part of it, does not stop, and counts within a frame alone. -/
theorem State.Inv.of_decoder {s t : State} (inv : s.Inv) (armed : RxState.armed s.rxst = true)
    (frame : t = { s with rxst := t.rxst, rxidx := t.rxidx, crcerr := t.crcerr, bmem := t.bmem, events := t.events })
    (memory : t.memoryOk) (running : t.rxst ≠ .idle) (bounded : t.rxidx.toNat ≤ 304)
    (outside : t.rxst = .inFrame ∨ t.rxst = .escape ∨ t.rxidx = 0) : t.Inv := by
  obtain ⟨params, _, ⟨_, inRange, _, _⟩, transmit, apart⟩ := inv
  have zero : t.rxst ≠ .inFrame → t.rxst ≠ .escape → t.rxidx = 0 := fun notFrame notEscape =>
    (outside.resolve_left notFrame).resolve_left notEscape
  have others : t.params = s.params ∧ t.rxbuf = s.rxbuf ∧ t.txbusy = s.txbusy ∧ t.txbuf = s.txbuf := by
    rw [frame]; exact ⟨rfl, rfl, rfl, rfl⟩
  obtain ⟨hp, hr, hb, ht⟩ := others
  refine ⟨hp ▸ params, memory, ⟨bounded, ?_, fun idle => absurd idle running, zero⟩, ?_, ?_⟩
  · rw [hr, hp]; exact inRange
  · rw [frame]; exact transmit
  · rw [State.ownersOk, hr, hb, ht]; exact fun _ => apart armed

/-- R105 to R114 keep the invariant. -/
theorem State.decodeByte_inv {s : State} (inv : s.Inv) (taking : s.rxst ≠ .deliver) (d : Byte) : (s.decodeByte d).Inv := by
  obtain ⟨_, memory, ⟨bounded, inRange, _, _⟩, _, _⟩ := id inv
  have armed : s.rxst = .idle ∨ RxState.armed s.rxst = true := by cases h : s.rxst <;> simp_all [RxState.armed]
  have frame := s.decodeByte_frame d
  rcases armed with idle | armed
  · rw [s.decodeByte_idle idle]; exact inv
  rcases s.decodeByte_cases d taking with ⟨_, e⟩ | ⟨_, _, e⟩ | ⟨_, _, e⟩ | ⟨_, _, _, e⟩ | ⟨_, _, _, e⟩ | ⟨_, _, e⟩ | ⟨inFrame, _, _, e⟩ |
    ⟨_, _, e⟩ | ⟨_, _, e⟩ | ⟨_, _, _, e⟩ <;> rw [e] at frame ⊢
  · exact inv
  · exact inv.of_decoder armed frame memory nofun (Nat.zero_le _) (.inl rfl)
  · exact inv
  · exact inv
  · obtain ⟨state, zero⟩ := s.frameComplete_registers s.rxidx.toNat
    refine inv.of_decoder armed frame (State.frameComplete_memoryOk memory inRange _) ?_ (zero ▸ Nat.zero_le _) (.inr (.inr zero))
    rcases state with h | h <;> rw [h] <;> nofun
  · exact inv.of_decoder armed frame memory nofun bounded (.inr (.inl rfl))
  · have same : (s.storeByte d).rxst = .inFrame := by rw [s.storeByte_frame, ← inFrame]
    exact inv.of_decoder armed frame (State.storeByte_memoryOk memory inRange d) (by rw [same]; nofun)
      (State.storeByte_rxidx_le bounded d) (.inl same)
  · exact inv.of_decoder armed frame (State.storeByte_memoryOk memory inRange 0xC0) nofun (State.storeByte_rxidx_le bounded 0xC0) (.inl rfl)
  · exact inv.of_decoder armed frame (State.storeByte_memoryOk memory inRange 0xDB) nofun (State.storeByte_rxidx_le bounded 0xDB) (.inl rfl)
  · exact inv.of_decoder armed frame memory nofun (Nat.zero_le _) (.inr (.inr rfl))

/-! The TX engine, commands and reset. -/

/-- R154, R155 keep the invariant: the last byte's completion leaves TXBUF and TXWAKE 0. -/
theorem State.txackStep_inv {s : State} (inv : s.Inv) : s.txackStep.Inv := by
  obtain ⟨params, memory, receive, ⟨room, fits, pos, wake, notSending, sending⟩, apart⟩ := id inv
  rcases s.txackStep_cases with ⟨_, e⟩ | ⟨busy, _, e⟩ | ⟨busy, _, more, e⟩ | ⟨busy, noWake, last, e⟩ <;> rw [e]
  · exact inv
  · refine ⟨params, memory, receive, ⟨room, fits, pos, (Nat.sub_le _ _).trans wake, fun idle => ?_, sending⟩, apart⟩
    exact absurd (idle.symm.trans busy) nofun
  · obtain ⟨buf, two, left, encoded⟩ := sending busy
    refine ⟨params, memory, receive, ⟨room, fits, left, wake, fun idle => ?_, fun _ => ⟨buf, two, ?_, encoded⟩⟩, apart⟩
    · exact absurd (idle.symm.trans busy) nofun
    · show s.txpos + 1 < s.txlen
      omega
  · exact ⟨params, memory, receive, ⟨room, fits, last.le, wake, fun _ => ⟨rfl, noWake⟩, nofun⟩, nofun⟩

/-- R151, R152, R160: arming with a buffer TX does not send keeps the invariant. -/
theorem State.Inv.of_arm {s : State} (inv : s.Inv) (p : Bool) (b : Byte) (inRange : Spec.bufOk s p b)
    (free : ¬ (p = true ∧ s.owner b.toNat = .tx)) :
    ({ s with rxidx := 0, rxbuf := if p then b else 0, rxst := Spec.armed p } : State).Inv := by
  rw [inv.owner_eq_tx_iff] at free
  obtain ⟨params, memory, _, transmit, _⟩ := inv
  cases p with
  | false => exact ⟨params, memory, ⟨Nat.zero_le _, params.1, fun _ => rfl, fun _ _ => rfl⟩, transmit, nofun⟩
  | true =>
    exact ⟨params, memory, ⟨Nat.zero_le _, inRange rfl, nofun, fun _ _ => rfl⟩, transmit,
      fun _ busy same => free ⟨rfl, busy, same.symm⟩⟩

/-- R153: an accepted SEND keeps the invariant: its frame has both END markers and lies in TXOUT whole, and RX is not armed with its
buffer. -/
theorem State.sending_inv {s : State} (inv : s.Inv) {b : Byte} (inRange : b.toNat < s.params.nbuf) (sendable : s.Sendable b)
    (fits : (Spec.sent s b).length ≤ s.params.txCap) : (s.sending b).Inv := by
  obtain ⟨params, memory, receive, _, _⟩ := inv
  obtain ⟨_, free, short⟩ := sendable
  have two : 2 ≤ (Spec.sent s b).length := s.frameBytes_sendFrame b ▸ two_le_frameBytes_length _
  have room : (s.sending b).txout.length ≤ s.params.txCap := List.length_take_le _ _
  have whole : (Spec.sent s b).length ≤ (s.sending b).txout.length := by
    simp only [State.sending, List.length_take, List.length_append]
    omega
  have apart : (s.sending b).ownersOk := fun armed _ same =>
    free ((s.owner_eq_rx_iff b.toNat).2 ⟨armed, congrArg BitVec.toNat same⟩)
  exact ⟨params, State.storeFcs_memoryOk memory inRange short rfl rfl, receive,
    ⟨room, fits, Nat.zero_le _, le_rfl, nofun, fun _ => ⟨inRange, two, show 0 < (Spec.sent s b).length by omega, whole⟩⟩, apart⟩

/-- R153: a SEND that does not fit keeps the invariant: it leaves TXOUT without an encoded byte, and no SEND is in progress. -/
theorem State.sendOverflow_inv {s : State} (inv : s.Inv) {b : Byte} (inRange : b.toNat < s.params.nbuf) (sendable : s.Sendable b) :
    (s.sendOverflow b).Inv := by
  obtain ⟨params, memory, receive, ⟨_, fits, pos, wake, notSending, _⟩, apart⟩ := inv
  obtain ⟨idle, _, short⟩ := sendable
  exact ⟨params, State.storeFcs_memoryOk memory inRange short rfl rfl, receive,
    ⟨Nat.zero_le _, fits, pos, wake, notSending, fun busy => absurd (idle.symm.trans busy) nofun⟩, apart⟩

theorem State.CommandOutcome.inv {s t : State} {w : Word} (outcome : s.CommandOutcome w t) (inv : s.Inv) : t.Inv := by
  cases outcome with
  | refused => exact inv
  | arms _ inRange free => exact inv.of_arm _ _ inRange free
  | sends inRange sendable fits => exact State.sending_inv inv inRange sendable fits
  | overflows inRange sendable => exact State.sendOverflow_inv inv inRange sendable

theorem State.resetWith_inv {p : Params} (ok : p.ok) : (State.resetWith p).Inv :=
  ⟨ok, ⟨State.resetWith_wf p, nofun⟩, ⟨Nat.zero_le _, ok.1, fun _ => rfl, fun _ _ => rfl⟩,
    ⟨Nat.zero_le _, Nat.zero_le _, le_rfl, Nat.zero_le _, fun _ => ⟨rfl, rfl⟩, nofun⟩, nofun⟩

theorem State.powerOn_inv {s : State} (ok : s.params.ok) : s.powerOn.Inv := State.resetWith_inv ok

/-- Settles O2: the reset state's parameters are in R8's ranges. -/
theorem invariantHoldsAtReset : Obligations.InvariantHoldsAtReset :=
  ⟨State.resetWith_inv (p := Config.resetParams) ⟨by decide, by decide, by decide⟩, fun _ => State.resetWith_inv⟩

theorem State.Effect.inv {s t : State} {a : Agent} (effect : s.Effect a t) (inv : s.Inv) : t.Inv := by
  cases effect with
  | waits => exact inv
  | command w => exact (s.commandStep_outcome w).inv inv
  | reads => exact inv
  | loads a => rcases s.clientLoad_cases a with ⟨_, e⟩ | ⟨_, e⟩ <;> rw [e] <;> exact inv
  | stores a v =>
    obtain ⟨params, memory, others⟩ := id inv
    have kept := State.clientStore_memoryOk memory a v
    rcases s.clientStore_cases a v with ⟨_, e⟩ | ⟨_, _, e⟩ | ⟨_, _, e⟩ <;> rw [e] at kept ⊢
    · exact inv
    · exact ⟨params, kept, others⟩
    · exact ⟨params, kept, others⟩
  | takes d taking => exact State.decodeByte_inv (s := s.emit (.rxIn d)) inv taking d
  | accepts => exact State.txackStep_inv inv
  | resets => exact State.powerOn_inv inv.1

/-- Settles O3: the environment's lists are no part of the invariant, and every effect on the block keeps it. -/
theorem everyStepKeepsInvariant : Obligations.EveryStepKeepsInvariant := by
  intro s t inv h
  rcases step_effect h with ⟨_, rfl⟩ | ⟨turn, _, line, turns, _, effect⟩
  · exact inv
  · exact effect.inv inv

end Sys2Proof.Machine
end


section
/-! PROOFS. Decoding and encoding (spec/30_encoding.md): command words, wire symbols, and the length of the encoder's output (rule R102). -/

namespace Sys2Proof.Machine

/-! Command words. -/

theorem decodeCommand_init (p : Bool) (b : Byte) : decodeCommand (commandWord opINIT p b) = .init p b := by
  have ⟨decodes, _⟩ := decodeCommand_cases _ (reservedWord_commandWord opINIT p b (.inl rfl))
  simpa using decodes

theorem decodeCommand_arm (p : Bool) (b : Byte) : decodeCommand (commandWord opARM p b) = .arm p b := by
  have ⟨_, decodes, _⟩ := decodeCommand_cases _ (reservedWord_commandWord opARM p b (.inr (.inl rfl)))
  simpa using decodes

theorem decodeCommand_send (p : Bool) (b : Byte) : decodeCommand (commandWord opSEND p b) = .send p b := by
  have ⟨_, _, decodes, _⟩ := decodeCommand_cases _ (reservedWord_commandWord opSEND p b (.inr (.inr (.inl rfl))))
  simpa using decodes

theorem decodeCommand_release (p : Bool) (b : Byte) : decodeCommand (commandWord opRELEASE p b) = .release p b := by
  have ⟨_, _, _, decodes⟩ := decodeCommand_cases _ (reservedWord_commandWord opRELEASE p b (.inr (.inr (.inr rfl))))
  simpa using decodes

theorem decodeCommand_of_reserved {w : Word} (r : reservedWord w = true) : decodeCommand w = .cmdReserved w := if_pos r

/-! Registers, symbols and rows with an operand. -/

theorem decodeRegRead_of_three_le {k : Byte} (h : 3 ≤ k.toNat) : decodeRegRead k = .rdWrOther (.read k) := by
  have other : ∀ j : Byte, j.toNat < 3 → ¬ (k == j) = true := fun j below same => by rw [eq_of_beq same] at h; omega
  rw [decodeRegRead, if_neg (other 0 (by decide)), if_neg (other 1 (by decide)), if_neg (other 2 (by decide))]

/-- R71, R72: a byte that is neither END nor ESC is a symbol. -/
theorem decodeSymbol_lit {d : Byte} (notEnd : d ≠ wireEND) (notEsc : d ≠ wireESC) (rest : List Byte) :
    decodeSymbol (d :: rest) = .ok (.lit d, rest) := by
  simp [decodeSymbol, notEnd, notEsc]

/-- Settles O5: an operation with a fixed encoding is decoded by computation; one with an operand needs that the operand is none of the
values another row has. -/
theorem decodeOfEncodeIsIdentity : Obligations.DecodeOfEncodeIsIdentity := by
  intro i wf
  cases i with
  | init p b => exact congrArg Except.ok (decodeCommand_init p b)
  | arm p b => exact congrArg Except.ok (decodeCommand_arm p b)
  | send p b => exact congrArg Except.ok (decodeCommand_send p b)
  | release p b => exact congrArg Except.ok (decodeCommand_release p b)
  | cmdReserved w => exact congrArg Except.ok (decodeCommand_of_reserved wf)
  | rdWrOther a =>
    cases a with
    | read k => exact congrArg Except.ok (decodeRegRead_of_three_le (of_decide_eq_true wf))
    | write k v =>
      have notCmd : ¬ (k == 3) = true := by simpa [Instr.wf, RegAccess.wf] using wf
      exact congrArg Except.ok (if_neg notCmd)
  | lit d =>
    obtain ⟨notEnd, notEsc⟩ : d ≠ wireEND ∧ d ≠ wireESC := by simpa [Instr.wf] using wf
    simp [encode, decode, decodeSymbol_lit notEnd notEsc]
  | rxOtherAwaitStart d =>
    have notEnd : d ≠ wireEND := by simpa [Instr.wf] using wf
    simp [encode, decode, decodeRx, notEnd]
  | rxDataInFrame d =>
    obtain ⟨notEnd, notEsc⟩ : d ≠ wireEND ∧ d ≠ wireESC := by simpa [Instr.wf] using wf
    simp [encode, decode, decodeRx, notEnd, notEsc]
  | rxOtherEscape d =>
    obtain ⟨notEnd, notEsc⟩ : d ≠ wireESC_END ∧ d ≠ wireESC_ESC := by simpa [Instr.wf] using wf
    simp [encode, decode, decodeRx, notEnd, notEsc]
  | _ => rfl

/-- Settles O6: a reserved word is kept whole, every other word is the word of its fields. -/
theorem encodeOfDecodedCommandIsTheWord : Obligations.EncodeOfDecodedCommandIsTheWord := by
  intro w
  cases r : reservedWord w with
  | true => rw [decodeCommand_of_reserved r]; exact ⟨rfl, r⟩
  | false =>
    have fields := commandWord_of_not_reserved w r
    have ⟨init, arm, send, release⟩ := decodeCommand_cases w r
    rcases cmdOp_of_not_reserved w r with op | op | op | op <;> rw [op] at fields
    · rw [init op]; exact ⟨congrArg Coded.cmd32 fields, rfl⟩
    · rw [arm op]; exact ⟨congrArg Coded.cmd32 fields, rfl⟩
    · rw [send op]; exact ⟨congrArg Coded.cmd32 fields, rfl⟩
    · rw [release op]; exact ⟨congrArg Coded.cmd32 fields, rfl⟩

/-- Settles O7: fixed words, decoded by computation. -/
theorem specWordsDecode : Obligations.SpecWordsDecode :=
  ⟨rfl, rfl, rfl, rfl, rfl, rfl, rfl, rfl, rfl, rfl, rfl⟩

/-! The encoder's symbols (R71, R72, R100 to R102). -/

/-- esc(d), case by case, in the statements' form (R100). -/
theorem esc_cases (d : Byte) :
    (d = 0xC0 ∧ Spec.esc d = [0xDB, 0xDC]) ∨ (d = 0xDB ∧ Spec.esc d = [0xDB, 0xDD]) ∨ (d ≠ 0xC0 ∧ d ≠ 0xDB ∧ Spec.esc d = [d]) := by
  by_cases isEnd : d = 0xC0
  · exact .inl ⟨isEnd, if_pos isEnd⟩
  by_cases isEsc : d = 0xDB
  · exact .inr (.inl ⟨isEsc, (if_neg isEnd).trans (if_pos isEsc)⟩)
  · exact .inr (.inr ⟨isEnd, isEsc, (if_neg isEnd).trans (if_neg isEsc)⟩)

theorem end_notMem_esc (d : Byte) : (0xC0 : Byte) ∉ Spec.esc d := by
  rcases esc_cases d with ⟨_, e⟩ | ⟨_, e⟩ | ⟨notEnd, _, e⟩ <;> rw [e]
  · decide
  · decide
  · exact fun member => notEnd (List.mem_singleton.1 member).symm

/-- Settles O8: each data byte's escape is one symbol, and no escape holds an END. -/
theorem encoderEmitsSymbols : Obligations.EncoderEmitsSymbols := by
  refine ⟨fun d rest => ?_, fun rest => rfl, fun src => ⟨frameBytes_eq_onWire src, fun member => ?_⟩⟩
  · rcases esc_cases d with ⟨rfl, e⟩ | ⟨rfl, e⟩ | ⟨notEnd, notEsc, e⟩ <;> rw [e]
    · rfl
    · rfl
    · rw [if_neg notEnd, if_neg notEsc]; exact decodeSymbol_lit notEnd notEsc rest
  · obtain ⟨d, _, within⟩ := List.mem_flatMap.1 member
    exact end_notMem_esc d within

theorem escaped_iff (d : Byte) : (d == 0xC0 || d == 0xDB) = true ↔ d = 0xC0 ∨ d = 0xDB := by
  rw [Bool.or_eq_true, beq_iff_eq, beq_iff_eq]

/-- R102: an escaped byte is one byte longer. -/
theorem length_esc (d : Byte) : (Spec.esc d).length = 1 + if d == 0xC0 || d == 0xDB then 1 else 0 := by
  rcases esc_cases d with ⟨rfl, e⟩ | ⟨rfl, e⟩ | ⟨notEnd, notEsc, e⟩
  · rfl
  · rfl
  · rw [e, if_neg (mt (escaped_iff d).1 (not_or.2 ⟨notEnd, notEsc⟩))]; rfl

theorem length_flatMap_esc (src : List Byte) :
    (src.flatMap Spec.esc).length = src.length + src.countP (fun d => d == 0xC0 || d == 0xDB) := by
  induction src with
  | nil => rfl
  | cons d ds ih =>
    simp only [List.flatMap_cons, List.length_append, List.length_cons, List.countP_cons, length_esc, ih]
    omega

theorem length_onWire (src : List Byte) : (Spec.onWire src).length = 2 + (src.flatMap Spec.esc).length := by
  simp [Spec.onWire]; omega

/-- Settles O46: both END markers and the escaped bytes; a byte list has at most as many END and ESC bytes as bytes. -/
theorem encodedLength : Obligations.EncodedLength := by
  intro src
  have formula (src : List Byte) := (congrArg List.length (frameBytes_eq_onWire src)).trans (length_onWire src)
  simp only [length_flatMap_esc] at formula
  have atMost := List.countP_le_length (p := fun d : Byte => d == 0xC0 || d == 0xDB) (l := src)
  refine ⟨by rw [formula]; omega, by rw [formula]; omega, by rw [formula]; omega, fun b => ?_⟩
  rw [formula, List.countP_singleton, List.length_singleton]
  simp only [escaped_iff]
  split <;> rfl

end Sys2Proof.Machine
end


section
/-! PROOFS. The CRC unit (spec/41_crc16.md) and SLIP_ENCODE run alone (rule R101). -/

namespace Sys2Proof.Machine

theorem exec_crc16 (data : List Byte) (n : Nat) (seed : U16) (s : State) :
    exec (.crc16 data n seed) s = .next (s.giveBack (.crc (crc16 data n seed))) := rfl
theorem exec_crcCheck (data : List Byte) (n : Nat) (seed : U16) (s : State) :
    exec (.crcCheck data n seed) s = .next (s.giveBack (.check (crcCheck data n seed))) := rfl
theorem exec_slipEncode (src : List Byte) (cap : Nat) (s : State) :
    exec (.slipEncode src cap) s = .next ((s.encodeToTxout src cap).giveBack (.encoded (slipResult src cap))) := rfl

/-- Settles O43: the base, the recurrence and the two forms of the check; one byte of the CRC is its eight bits in turn. -/
theorem crcFunctions : Obligations.CrcFunctions := by
  refine fun s data n seed => ⟨_, _, exec_crc16 data n seed s, fun zero => by rw [zero, crc16_zero], exec_crcCheck data n seed s,
    beq_iff_eq, crcCheck_iff data n seed, fun inside => ⟨_, exec_crc16 data (n + 1) seed s, ?_⟩⟩
  rw [crc16_succ data n seed inside]
  rfl

/-! The residue (R132). One bit of the CRC is linear, so a byte is; of a register with a low byte of 0, eight bits are a shift. -/

theorem iterate_crcBit_xor (n : Nat) (a b : U16) : crcBit^[n] (a ^^^ b) = crcBit^[n] a ^^^ crcBit^[n] b := by
  induction n generalizing a b with
  | zero => rfl
  | succ n ih => simp only [Function.iterate_succ_apply, crcBit_xor, ih]

/-- While only 0s fall out, the register is shifted. -/
theorem iterate_crcBit_of_low_zero (n : Nat) (r : U16) (low : ∀ i, i < n → r.getLsbD i = false) : crcBit^[n] r = r >>> n := by
  induction n generalizing r with
  | zero => rfl
  | succ n ih =>
    have even : crcBit r = r >>> 1 := by rw [crcBit, low 0 (Nat.succ_pos n)]; rfl
    have next : ∀ i, i < n → (r >>> 1).getLsbD i = false := fun i below => by
      rw [BitVec.getLsbD_ushiftRight, low (1 + i) (by omega)]
    rw [Function.iterate_succ_apply, even, ih _ next, ← BitVec.shiftRight_add, Nat.add_comm]

/-- The complement of a register, fed back low byte first, leaves the residue whatever the register was: its low byte and the complement's
give 0xFF, and so do, after eight shifts, its high byte and the complement's. -/
theorem crcByte_crcByte_not (r : U16) : crcByte (crcByte r ((~~~r).setWidth 8)) ((~~~r >>> 8).setWidth 8) = 0xF0B8 := by
  have low : r ^^^ ((~~~r).setWidth 8).setWidth 16 = (r >>> 8) <<< 8 ^^^ 0xFF := by
    refine BitVec.eq_of_getLsbD_eq fun i hi => ?_
    interval_cases i <;> simp
  have high : r >>> 8 ^^^ ((~~~r >>> 8).setWidth 8).setWidth 16 = (0xFF : U16) := by
    refine BitVec.eq_of_getLsbD_eq fun i hi => ?_
    interval_cases i <;> simp
  have shifted : crcBit^[8] ((r >>> 8) <<< 8) = r >>> 8 := by
    rw [iterate_crcBit_of_low_zero _ _ fun i hi => by simp [hi]]
    refine BitVec.eq_of_getLsbD_eq fun i hi => ?_
    interval_cases i <;> simp
  have first : crcBit^[8] 0xFF = 0x0F78 := by simp [crcBit, crcPoly]
  have last : crcBit^[8] (0xFF ^^^ 0x0F78) = 0xF0B8 := by simp [crcBit, crcPoly]
  calc crcByte (crcByte r ((~~~r).setWidth 8)) ((~~~r >>> 8).setWidth 8)
      = crcBit^[8] (crcBit^[8] (r ^^^ ((~~~r).setWidth 8).setWidth 16) ^^^ ((~~~r >>> 8).setWidth 8).setWidth 16) := rfl
    _ = crcBit^[8] ((r >>> 8 ^^^ (0x0F78 : U16)) ^^^ ((~~~r >>> 8).setWidth 8).setWidth 16) := by
      rw [low, iterate_crcBit_xor 8 ((r >>> 8) <<< 8), shifted, first]
    _ = crcBit^[8] ((r >>> 8 ^^^ ((~~~r >>> 8).setWidth 8).setWidth 16) ^^^ (0x0F78 : U16)) := by
      congr 1; ac_rfl
    _ = 0xF0B8 := by rw [high, last]

theorem length_fcsBytes (msg : List Byte) : (Spec.fcsBytes msg).length = 2 := rfl

/-- R132: a list with its FCS leaves the residue. -/
theorem crc16_append_fcsBytes (p : List Byte) : crc16 (p ++ Spec.fcsBytes p) (p.length + 2) 0xFFFF = 0xF0B8 := by
  rw [← length_fcsBytes p, ← List.length_append, crc16_length, crcList_append, ← crc16_length p]
  exact crcByte_crcByte_not (crc16 p p.length 0xFFFF)

/-- Settles O44. -/
theorem crcResidue : Obligations.CrcResidue :=
  fun p => ⟨crc16_append_fcsBytes p, (crcCheck_iff _ _ _).2 (crc16_append_fcsBytes p)⟩

/-- Settles O45: both cases of the encoder's writes to TXOUT. -/
theorem slipEncodeWritesTxout : Obligations.SlipEncodeWritesTxout := by
  intro s src cap
  have length := congrArg List.length (frameBytes_eq_onWire src)
  rw [exec_slipEncode]
  refine ⟨fun fits => ⟨_, rfl, ?_⟩, fun tooLong => ⟨_, rfl, ?_⟩⟩
  · rcases s.encodeToTxout_cases src cap with ⟨_, writes⟩ | ⟨tooLong, _⟩
    · have answer : slipResult src cap = some (Spec.onWire src).length := by rw [slipResult, if_neg (by omega), length]
      rw [frameBytes_eq_onWire] at writes
      rw [writes, answer]
      exact ⟨rfl, State.txoutByte_of_encoded rfl rfl⟩
    · omega
  · rcases s.encodeToTxout_cases src cap with ⟨fits, _⟩ | ⟨_, writes⟩
    · omega
    · have answer : slipResult src cap = none := if_pos (by omega)
      rw [writes, answer]
      exact ⟨rfl, Nat.succ_ne_self _, State.txoutByte_of_txout_nil rfl⟩

end Sys2Proof.Machine
end


section
/-! PROOFS. Rules of the whole machine: what every step keeps, and which agent's step may change what (rules R8, R24, R29, R40, R65, R167,
R190, R193, R196). -/

namespace Sys2Proof.Machine

/-! Frames of the CLIENT's accesses and of TXACK. -/

theorem State.clientLoad_frame (s : State) (a : Nat) :
    s.clientLoad a = { s with faults := (s.clientLoad a).faults, returned := (s.clientLoad a).returned } := by
  rcases s.clientLoad_cases a with ⟨_, e⟩ | ⟨_, e⟩ <;> rw [e] <;> rfl

theorem State.clientStore_frame (s : State) (a : Nat) (v : Byte) :
    s.clientStore a v = { s with bmem := (s.clientStore a v).bmem, faults := (s.clientStore a v).faults } := by
  rcases s.clientStore_cases a v with ⟨_, e⟩ | ⟨_, _, e⟩ | ⟨_, _, e⟩ <;> rw [e] <;> rfl

theorem State.txackStep_frame (s : State) :
    s.txackStep = { s with txwake := s.txackStep.txwake, txpos := s.txackStep.txpos, txbusy := s.txackStep.txbusy
                           txbuf := s.txackStep.txbuf, events := s.txackStep.events } := by
  rcases s.txackStep_cases with ⟨_, e⟩ | ⟨_, _, e⟩ | ⟨_, _, _, e⟩ | ⟨_, _, _, e⟩ <;> rw [e]

theorem State.txackStep_events (s : State) : ∃ l, s.txackStep.events = s.events ++ l := by
  rcases s.txackStep_cases with ⟨_, e⟩ | ⟨_, _, e⟩ | ⟨_, _, _, e⟩ | ⟨_, _, _, e⟩ <;> rw [e]
  · exact ⟨[], (List.append_nil _).symm⟩
  all_goals exact ⟨_, rfl⟩

/-- FRAME_COMPLETE appends one event; the counter counts exactly when that event is a failed check's (R156 to R159). -/
theorem State.frameComplete_history (s : State) (n : Nat) : ∃ e, (s.frameComplete n).events = s.events ++ [e] ∧
    ((s.frameComplete n).crcerr = s.crcerr ∨ e = .discard .crc n ∧ (s.frameComplete n).crcerr = s.crcerr + 1) := by
  rcases s.frameComplete_cases n with ⟨_, e⟩ | ⟨_, _, e⟩ | ⟨_, _, e⟩ <;> rw [e]
  · exact ⟨_, rfl, .inl rfl⟩
  · rw [State.deliverMsg_eq]; exact ⟨_, rfl, .inl rfl⟩
  · exact ⟨_, rfl, .inr ⟨rfl, rfl⟩⟩

/-! Parameters (R8) and completion (R190). -/

theorem State.CommandOutcome.params_eq {s t : State} {w : Word} (outcome : s.CommandOutcome w t) : t.params = s.params := by
  cases outcome <;> rfl

theorem State.Effect.params_eq {s t : State} {a : Agent} (effect : s.Effect a t) : t.params = s.params := by
  cases effect with
  | waits => rfl
  | command w => exact (s.commandStep_outcome w).params_eq
  | reads => rfl
  | loads a => rw [s.clientLoad_frame]
  | stores a v => rw [s.clientStore_frame]
  | takes d => rw [State.decodeByte_frame]; rfl
  | accepts => rw [s.txackStep_frame]
  | resets => rfl

theorem State.rxStep_params (s : State) (d : Byte) : (s.rxStep d).params = s.params := by
  rcases s.rxStep_cases d with ⟨_, e⟩ | ⟨taking, e⟩ <;> rw [e]
  exact (Effect.takes d taking).params_eq

theorem State.EffectUpToLists.params_eq {s t : State} {a : Agent} (effect : s.EffectUpToLists a t) : t.params = s.params := by
  obtain ⟨_, _, _, effect⟩ := effect
  exact effect.params_eq

theorem State.encodeToTxout_params (s : State) (src : List Byte) (cap : Nat) : (s.encodeToTxout src cap).params = s.params := by
  rcases s.encodeToTxout_cases src cap with ⟨_, e⟩ | ⟨_, e⟩ <;> rw [e]

theorem State.frameComplete_params (s : State) (len : Nat) : (s.frameComplete len).params = s.params := by rw [s.frameComplete_frame]

/-- R190, R8, operation by operation. -/
theorem exec_completes (i : Instr) (s : State) : ∃ t, exec i s = .next t ∧ t.params = s.params := by
  have command (w : Word) : ∃ t, exec (decodeCommand w) s = .next t ∧ t.params = s.params :=
    ⟨_, exec_decodeCommand w s, (s.commandStep_outcome w).params_eq⟩
  cases i with
  | init p b => exact decodeCommand_init p b ▸ command _
  | arm p b => exact decodeCommand_arm p b ▸ command _
  | send p b => exact decodeCommand_send p b ▸ command _
  | release p b => exact decodeCommand_release p b ▸ command _
  | cmdReserved w | wrCmd w => exact ⟨_, rfl, (s.commandStep_outcome w).params_eq⟩
  | rdStatus | rdRxcnt | rdCrcerr => exact ⟨_, rfl, rfl⟩
  | rdWrOther a =>
    cases a with
    | read k => exact ⟨_, rfl, rfl⟩
    | write k v => exact ⟨_, rfl, (s.runTurn_effect (.regWrite k v)).params_eq⟩
  | ld a => exact ⟨_, rfl, (State.Effect.loads a).params_eq⟩
  | st a v => exact ⟨_, rfl, (State.Effect.stores a v).params_eq⟩
  | wireEnd | wireEsc | wireEscEnd | wireEscEsc | delim | rxEndAwaitStart | rxEndInFrameStored | rxEndInFrameEmpty | rxEscInFrame
  | rxEscEndEscape | rxEscEscEscape => exact ⟨_, rfl, s.rxStep_params _⟩
  | lit d | rxIdle d | rxOtherAwaitStart d | rxDataInFrame d | rxOtherEscape d => exact ⟨_, rfl, s.rxStep_params d⟩
  | xend | xesc => exact ⟨_, rfl, State.rxStep_params { s.queueTurns [.rxHeld] with line := _ :: s.line } _⟩
  | txack => exact ⟨_, rfl, State.Effect.accepts.params_eq⟩
  | reset => exact ⟨_, rfl, rfl⟩
  | crc16 | crcCheck => exact ⟨_, rfl, rfl⟩
  | slipEncode src cap => exact ⟨_, rfl, s.encodeToTxout_params src cap⟩
  | store v => exact ⟨_, rfl, by rw [s.storeByte_frame]⟩
  | frameComplete len => exact ⟨_, rfl, s.frameComplete_params len⟩
  | frameCompleteShort len | frameCompleteCrcFail len => exact ⟨_, rfl, rfl⟩
  | frameCompleteDeliver len => exact ⟨_, rfl, by rw [State.deliverMsg_eq]⟩
  | pause => exact ⟨_, rfl, (s.pseudo_effect .pause).params_eq⟩
  | setlen b n => exact ⟨_, rfl, (s.pseudo_effect (.setlen b n)).params_eq⟩
  | fill b off data => exact ⟨_, rfl, (s.pseudo_effect (.fill b off data)).params_eq⟩
  | msg b sap mid payload => exact ⟨_, rfl, (s.pseudo_effect (.msg b sap mid payload)).params_eq⟩
  | rxs data => exact ⟨_, rfl, (s.pseudo_effect (.rxs data)).params_eq⟩
  | txackAll => exact ⟨_, rfl, (s.pseudo_effect .txackAll).params_eq⟩

/-- Settles O4. -/
theorem everyOperationCompletesAndKeepsParameters : Obligations.EveryOperationCompletesAndKeepsParameters := by
  refine ⟨exec_completes, fun s => ?_⟩
  obtain ⟨t, h⟩ := step_total s
  refine ⟨t, h, ?_⟩
  rcases step_effect h with ⟨_, rfl⟩ | ⟨_, _, effect⟩
  · rfl
  · exact effect.params_eq

/-! FAULTS (R29, R66, R67, R193). -/

theorem State.CommandOutcome.faults_eq {s t : State} {w : Word} (outcome : s.CommandOutcome w t) : t.faults = s.faults := by
  cases outcome <;> rfl

theorem State.Effect.faults_sticky {s t : State} {a : Agent} (effect : s.Effect a t) (notPower : a ≠ .power) :
    (s.faults.ownership = true → t.faults.ownership = true) ∧ (s.faults.range = true → t.faults.range = true) ∧
      (t.faults ≠ s.faults → a = .client) := by
  have kept {u : State} (same : u.faults = s.faults) : (s.faults.ownership = true → u.faults.ownership = true) ∧
      (s.faults.range = true → u.faults.range = true) ∧ (u.faults ≠ s.faults → a = .client) := by
    rw [same]; exact ⟨id, id, fun changed => absurd rfl changed⟩
  cases effect with
  | waits => exact kept rfl
  | command w => exact kept (s.commandStep_outcome w).faults_eq
  | reads => exact kept rfl
  | loads a =>
    rcases s.clientLoad_cases a with ⟨_, e⟩ | ⟨_, e⟩ <;> rw [e]
    · exact ⟨id, fun _ => rfl, fun _ => rfl⟩
    · exact kept rfl
  | stores a v =>
    rcases s.clientStore_cases a v with ⟨_, e⟩ | ⟨_, _, e⟩ | ⟨_, _, e⟩ <;> rw [e]
    · exact ⟨id, fun _ => rfl, fun _ => rfl⟩
    · exact kept rfl
    · exact ⟨fun _ => rfl, id, fun _ => rfl⟩
  | takes d => exact kept (by rw [State.decodeByte_frame]; rfl)
  | accepts => exact kept (by rw [s.txackStep_frame])
  | resets => exact absurd rfl notPower

/-- A turn that is not power-on is no step of the power supply. -/
theorem agent_ne_power {s : State} {turn : Turn} (first : s.turns.head? = some turn) (notPowerOn : s.turns.head? ≠ some .powerOn) :
    turn.agent ≠ .power := fun power => notPowerOn (Turn.agent_eq_power power ▸ first)

/-- Settles O53. -/
theorem faultsAreStickyAndTheClients : Obligations.FaultsAreStickyAndTheClients := by
  intro s t h notPowerOn
  rcases step_effect h with ⟨_, rfl⟩ | ⟨turn, first, _, _, _, effect⟩
  · exact ⟨id, id, fun changed => absurd rfl changed⟩
  · obtain ⟨ownership, range, client⟩ := effect.faults_sticky (agent_ne_power first notPowerOn)
    exact ⟨ownership, range, fun changed => ⟨turn, first, client changed⟩⟩

/-! The event history (R40). -/

theorem State.decodeByte_events (s : State) (d : Byte) (taking : s.rxst ≠ .deliver) : ∃ l, (s.decodeByte d).events = s.events ++ l := by
  rcases s.decodeByte_outcome d taking with ⟨_, n, e⟩ | ⟨_, _, _, l, _, e⟩ <;> rw [e]
  · obtain ⟨event, appended, _⟩ := s.frameComplete_history n
    exact ⟨_, appended⟩
  · exact ⟨l, rfl⟩

theorem State.Effect.events_append {s t : State} {a : Agent} (effect : s.Effect a t) (notPower : a ≠ .power) :
    ∃ l, t.events = s.events ++ l := by
  have kept : s.events = s.events ++ [] := (List.append_nil _).symm
  cases effect with
  | waits => exact ⟨[], kept⟩
  | command w => exact ⟨_, (s.commandStep_outcome w).events_eq⟩
  | reads => exact ⟨[], kept⟩
  | loads a => exact ⟨[], by rw [s.clientLoad_frame]; exact kept⟩
  | stores a v => exact ⟨[], by rw [s.clientStore_frame]; exact kept⟩
  | takes d taking =>
    obtain ⟨l, e⟩ := State.decodeByte_events (s.emit (.rxIn d)) d taking
    exact ⟨.rxIn d :: l, by rw [e, State.emit_events, List.append_assoc]; rfl⟩
  | accepts => exact s.txackStep_events
  | resets => exact absurd rfl notPower

/-- Settles O54. -/
theorem eventHistoryIsAppendOnly : Obligations.EventHistoryIsAppendOnly := by
  intro s t h notPowerOn
  rcases step_effect h with ⟨_, rfl⟩ | ⟨turn, first, _, _, _, effect⟩
  · exact ⟨[], (List.append_nil _).symm⟩
  · exact effect.events_append (agent_ne_power first notPowerOn)

/-! CRCERR (R24). -/

theorem toNat_mod_of_cmdOp {w : Word} {op : BitVec 4} (h : cmdOp w = op) : w.toNat % 16 = op.toNat := by rw [← h, cmdOp_toNat]

theorem State.Effect.crcerr_cases {s t : State} {a : Agent} (effect : s.Effect a t) :
    t.crcerr = s.crcerr ∨ a = .power ∨ (∃ w, t.events = s.events ++ [.cmd w .ok] ∧ w.toNat % 16 = 1 ∧ t.crcerr = 0) ∨
      ∃ n, t.events = s.events ++ [.rxIn 0xC0, .discard .crc n] ∧ t.crcerr = s.crcerr + 1 := by
  cases effect with
  | waits => exact .inl rfl
  | command w =>
    have outcome := s.commandStep_outcome w
    generalize s.commandStep w = t at outcome ⊢
    cases outcome with
    | arms mayArm =>
      rcases mayArm with ⟨op, _, cleared⟩ | ⟨_, _, kept⟩ | ⟨_, _, kept⟩
      · exact .inr (.inr (.inl ⟨w, rfl, toNat_mod_of_cmdOp op, cleared⟩))
      · exact .inl kept
      · exact .inl kept
    | _ => exact .inl rfl
  | reads => exact .inl rfl
  | loads a => rw [s.clientLoad_frame]; exact .inl rfl
  | stores a v => rw [s.clientStore_frame]; exact .inl rfl
  | takes d taking =>
    rcases State.decodeByte_outcome (s.emit (.rxIn d)) d taking with ⟨isEnd, n, e⟩ | ⟨_, _, _, _, _, e⟩ <;> rw [e]
    · obtain ⟨event, appended, kept | ⟨failed, counted⟩⟩ := (s.emit (.rxIn d)).frameComplete_history n
      · exact .inl kept
      · refine .inr (.inr (.inr ⟨n, ?_, counted⟩))
        rw [appended, failed, isEnd, State.emit_events, List.append_assoc]; rfl
    · exact .inl rfl
  | accepts => rw [s.txackStep_frame]; exact .inl rfl
  | resets => exact .inr (.inl rfl)

/-- Settles O55. -/
theorem onlyInitAndCrcFailureWriteCrcerr : Obligations.OnlyInitAndCrcFailureWriteCrcerr := by
  intro s t h changed
  rcases step_effect h with ⟨_, rfl⟩ | ⟨turn, first, _, _, _, effect⟩
  · exact absurd rfl changed
  · rcases effect.crcerr_cases with kept | power | others
    · exact absurd kept changed
    · exact .inl (Turn.agent_eq_power power ▸ first)
    · exact .inr others

/-! RXST: who ends a delivery, and who leaves IDLE (R105, R196, R197, R221). -/

/-- RXST changes by power-on, by a command that arms or pauses the decoder, or by a byte. -/
theorem State.Effect.rxst_cases {s t : State} {a : Agent} (effect : s.Effect a t) :
    t.rxst = s.rxst ∨ (a = .power ∧ t.rxst = .idle) ∨
      (∃ w crcerr, s.MayArm w crcerr ∧ t.events = s.events ++ [.cmd w .ok] ∧ t.rxst = Spec.armed (cmdP w)) ∨
      (s.rxst ≠ .deliver ∧ s.rxst ≠ .idle) := by
  cases effect with
  | waits => exact .inl rfl
  | command w =>
    have outcome := s.commandStep_outcome w
    generalize s.commandStep w = t at outcome ⊢
    cases outcome with
    | arms mayArm => exact .inr (.inr (.inl ⟨w, _, mayArm, rfl, rfl⟩))
    | _ => exact .inl rfl
  | reads => exact .inl rfl
  | loads a => rw [s.clientLoad_frame]; exact .inl rfl
  | stores a v => rw [s.clientStore_frame]; exact .inl rfl
  | takes d taking =>
    by_cases idle : s.rxst = .idle
    · rw [State.decodeByte_idle (s.emit (.rxIn d)) idle]; exact .inl rfl
    · exact .inr (.inr (.inr ⟨taking, idle⟩))
  | accepts => rw [s.txackStep_frame]; exact .inl rfl
  | resets => exact .inr (.inl ⟨rfl, rfl⟩)

/-- Settles O56: in DELIVER no byte is taken, and of the commands that arm the decoder only RELEASE runs. -/
theorem onlyReleaseEndsDelivery : Obligations.OnlyReleaseEndsDelivery := by
  intro s t h ready cleared
  replace ready : s.rxst = .deliver := eq_of_beq ready
  replace cleared : t.rxst ≠ .deliver := ne_of_beq_false cleared
  rcases step_effect h with ⟨_, rfl⟩ | ⟨turn, first, _, _, _, effect⟩
  · exact absurd ready cleared
  · rcases effect.rxst_cases with kept | ⟨power, _⟩ | ⟨w, _, mayArm, appended, _⟩ | ⟨taking, _⟩
    · exact absurd (kept.trans ready) cleared
    · exact .inl (Turn.agent_eq_power power ▸ first)
    · rcases mayArm with ⟨_, wrong, _⟩ | ⟨_, wrong, _⟩ | ⟨op, _, _⟩
      · exact absurd ready wrong
      · exact absurd ready wrong
      · exact .inr ⟨w, appended, toNat_mod_of_cmdOp op⟩
    · exact absurd ready taking

/-- Settles O57: in IDLE a byte is dropped, and RELEASE is refused. -/
theorem onlyArmingLeavesIdle : Obligations.OnlyArmingLeavesIdle := by
  intro s t h idle left
  rcases step_effect h with ⟨_, rfl⟩ | ⟨turn, first, _, _, _, effect⟩
  · exact absurd idle left
  · rcases effect.rxst_cases with kept | ⟨_, idle'⟩ | ⟨w, _, mayArm, appended, armed⟩ | ⟨_, notIdle⟩
    · exact absurd (kept.trans idle) left
    · exact absurd idle' left
    · have named : cmdP w = true := by
        cases p : cmdP w with
        | true => rfl
        | false => rw [p] at armed; exact absurd armed left
      rw [named] at armed
      rcases mayArm with ⟨op, _, _⟩ | ⟨op, _, _⟩ | ⟨_, delivering, _⟩
      · exact ⟨w, appended, .inl (toNat_mod_of_cmdOp op), named, armed⟩
      · exact ⟨w, appended, .inr (toNat_mod_of_cmdOp op), named, armed⟩
      · exact absurd (idle.symm.trans delivering) nofun
    · exact absurd idle notIdle

/-! The two engines (R65, R167). -/

/-- R103: STORE writes inside the armed buffer alone. -/
theorem State.storeByte_memByte_outside (s : State) (v : Byte) {a : Nat} (outside : a < Spec.at s.rxbuf 0 ∨ Spec.at s.rxbuf 306 ≤ a) :
    (s.storeByte v).memByte a = s.memByte a := by
  rcases s.storeByte_cases v with ⟨below, e⟩ | ⟨_, e⟩ <;> rw [e]
  rw [span_add_eq_at]
  refine State.memByte_memWrite_other s (a := Spec.at s.rxbuf (2 + s.rxidx.toNat)) ?_ v
  unfold Spec.at at *
  omega

/-- R159: FRAME_COMPLETE writes LENGTH of the armed buffer alone. -/
theorem State.frameComplete_memByte_outside (s : State) (n : Nat) {a : Nat}
    (outside : a < Spec.at s.rxbuf 0 ∨ Spec.at s.rxbuf 306 ≤ a) : (s.frameComplete n).memByte a = s.memByte a := by
  rcases s.frameComplete_cases n with ⟨_, e⟩ | ⟨_, _, e⟩ | ⟨_, _, e⟩ <;> rw [e]
  · rfl
  · rw [State.deliverMsg_eq]
    refine State.memByte_memWrites_other { s with rxidx := 0 } (base s.rxbuf) (le16 (BitVec.ofNat 16 (n - 4))) ?_
    rw [base_eq, le16_length]
    unfold Spec.at at outside
    omega
  · rfl

theorem State.decodeByte_memByte_outside (s : State) (d : Byte) (taking : s.rxst ≠ .deliver) {a : Nat}
    (outside : a < Spec.at s.rxbuf 0 ∨ Spec.at s.rxbuf 306 ≤ a) : (s.decodeByte d).memByte a = s.memByte a := by
  rcases s.decodeByte_outcome d taking with ⟨_, n, e⟩ | ⟨_, _, _, _, rfl | ⟨v, rfl⟩, e⟩ <;> rw [e]
  · exact s.frameComplete_memByte_outside n outside
  · rfl
  · rw [← s.storeByte_memByte_outside v outside]
    have draws : (s.storeByte v).bmemEpoch = s.bmemEpoch := by rw [s.storeByte_frame]
    refine State.memByte_congr ?_ ?_ a
    · rfl
    · exact draws.symm

theorem State.Effect.lineRx_frame {s t : State} (effect : s.Effect .lineRx t) :
    t = { s with rxst := t.rxst, rxidx := t.rxidx, crcerr := t.crcerr, bmem := t.bmem, events := t.events } ∧
      ∀ a, a < Spec.at s.rxbuf 0 ∨ Spec.at s.rxbuf 306 ≤ a → t.memByte a = s.memByte a := by
  cases effect with
  | waits => exact ⟨rfl, fun _ _ => rfl⟩
  | takes d taking =>
    exact ⟨State.decodeByte_frame (s.emit (.rxIn d)) d, fun a => State.decodeByte_memByte_outside (s.emit (.rxIn d)) d taking⟩

theorem State.Effect.lineTx_frame {s t : State} (effect : s.Effect .lineTx t) :
    t = { s with txwake := t.txwake, txpos := t.txpos, txbusy := t.txbusy, txbuf := t.txbuf, events := t.events } := by
  cases effect with
  | waits => rfl
  | accepts => exact s.txackStep_frame

/-- Settles O58: LINE_RX's steps are the decoder's, LINE_TX's are TXACK. -/
theorem enginesAreIndependent : Obligations.EnginesAreIndependent := by
  intro s t turn h first
  rcases step_effect h with ⟨noTurn, _⟩ | ⟨turn', first', line, turns, lists, effect⟩
  · rw [noTurn] at first; cases first
  obtain rfl : turn' = turn := Option.some.inj (first'.symm.trans first)
  refine ⟨fun rx => ?_, fun tx => ?_⟩
  · rw [rx] at effect
    obtain ⟨frame, memory⟩ := effect.lineRx_frame
    refine ⟨?_, ?_, ?_, ?_, ?_, ?_, ?_, ?_, ?_, memory⟩ <;> rw [frame]
  · rw [tx] at effect lists
    obtain rfl : line = s.line := lists.resolve_left nofun
    rw [effect.lineTx_frame]
    exact ⟨rfl, rfl, rfl, rfl, rfl, rfl, rfl, fun _ => rfl⟩

/-- The registers and bytes a SEND in progress emits from are `s`'s in `t` (R65). -/
def State.SameSend (s t : State) : Prop :=
  t.txbusy = s.txbusy ∧ t.txbuf = s.txbuf ∧ t.txlen = s.txlen ∧ t.txpos = s.txpos ∧ t.txwake = s.txwake ∧
    ∀ i, t.txoutByte i = s.txoutByte i

/-- While a SEND is in progress another is refused (R153), so no command touches the TX engine. -/
theorem State.CommandOutcome.sameSend {s t : State} {w : Word} (outcome : s.CommandOutcome w t) (busy : s.txbusy = true) :
    s.SameSend t := by
  cases outcome with
  | refused | arms => exact ⟨rfl, rfl, rfl, rfl, rfl, fun _ => rfl⟩
  | sends _ sendable | overflows _ sendable => exact absurd (sendable.1.symm.trans busy) nofun

theorem State.Effect.sameSend {s t : State} {a : Agent} (effect : s.Effect a t) (agent : a = .client ∨ a = .lineRx)
    (busy : s.txbusy = true) : s.SameSend t := by
  have same : s.SameSend s := ⟨rfl, rfl, rfl, rfl, rfl, fun _ => rfl⟩
  cases effect with
  | waits => exact same
  | command w => exact (s.commandStep_outcome w).sameSend busy
  | reads => exact same
  | loads a => rw [s.clientLoad_frame]; exact same
  | stores a v => rw [s.clientStore_frame]; exact same
  | takes d => rw [State.decodeByte_frame]; exact same
  | accepts | resets => rcases agent with h | h <;> cases h

/-- Settles O59. -/
theorem sendSnapshotIsStable : Obligations.SendSnapshotIsStable := by
  intro s t turn h busy first agent
  rcases step_effect h with ⟨noTurn, _⟩ | ⟨turn', first', _, _, _, effect⟩
  · rw [noTurn] at first; cases first
  obtain rfl : turn' = turn := Option.some.inj (first'.symm.trans first)
  have same := effect.sameSend agent busy
  exact ⟨same.1.trans busy, same.2⟩

end Sys2Proof.Machine
end


section
/-! PROOFS. What LINE_RX offers (rules R70 to R72, R104, R224): the row of a byte, the operations that offer one, and the step's fetch. -/

namespace Sys2Proof.Machine

/-! The row of a byte in the decoder's state (R104). -/

theorem row_eq_decodeRx (s : State) (d : Byte) : Spec.row s d = decodeRx s.rxst (s.rxidx != 0) d := by
  simp only [Spec.row, decode]
  cases decodeRx s.rxst (s.rxidx != 0) d <;> rfl

theorem exec_of_row {s : State} {d : Byte} {i : Instr} (row : Spec.row s d = some i) (u : State) : exec i u = .next (u.rxStep d) := by
  rw [row_eq_decodeRx] at row
  exact exec_of_decodeRx row u

theorem exists_row {s : State} (taking : s.rxst ≠ .deliver) (d : Byte) : ∃ r, Spec.row s d = some r := by
  rw [row_eq_decodeRx, ← Option.ne_none_iff_exists']
  exact mt (decodeRx_eq_none_iff _ _ _).1 taking

/-- R70, R71: an operation of one byte offers that byte. -/
theorem exec_of_mem_offers {d e : Byte} {i : Instr} (offers : (i, e) ∈ Spec.offers d) (s : State) : exec i s = .next (s.rxStep e) := by
  simp only [Spec.offers, List.mem_cons, Prod.mk.injEq, List.not_mem_nil, or_false] at offers
  rcases offers with ⟨rfl, rfl⟩ | ⟨rfl, rfl⟩ | ⟨rfl, rfl⟩ | ⟨rfl, rfl⟩ | ⟨rfl, rfl⟩ | ⟨rfl, rfl⟩ | ⟨rfl, rfl⟩ | ⟨rfl, rfl⟩ |
    ⟨rfl, rfl⟩ | ⟨rfl, rfl⟩ | ⟨rfl, rfl⟩ | ⟨rfl, rfl⟩ | ⟨rfl, rfl⟩ | ⟨rfl, rfl⟩ | ⟨rfl, rfl⟩ | ⟨rfl, rfl⟩ <;> rfl

/-- R71, R72: a two-byte symbol offers its ESC, with its second byte and LINE_RX's next turn queued. -/
theorem exec_of_mem_symbolPairs {e : Byte} {i : Instr} (pair : (i, e) ∈ Spec.symbolPairs) (s : State) :
    exec i s = .next (State.rxStep { s with line := e :: s.line, turns := .rxHeld :: s.turns } 0xDB) := by
  simp only [Spec.symbolPairs, List.mem_cons, Prod.mk.injEq, List.not_mem_nil, or_false] at pair
  rcases pair with ⟨rfl, rfl⟩ | ⟨rfl, rfl⟩ <;> rfl

/-- Settles O29: an operation and the row of its byte are the same decoder step. -/
theorem wireBytesTakeTheirRow : Obligations.WireBytesTakeTheirRow := by
  refine fun s taking => ⟨fun d i e offers => ?_, fun i e pair => ?_⟩
  · obtain ⟨r, row⟩ := exists_row taking e
    exact ⟨r, _, row, exec_of_mem_offers offers s, exec_of_row row s⟩
  · obtain ⟨r, row⟩ := exists_row taking 0xDB
    exact ⟨r, _, row, exec_of_mem_symbolPairs pair s, exec_of_row row _⟩

/-! In DELIVER LINE_RX keeps its bytes (R104, R224). -/

theorem State.rxStep_of_deliver {s : State} (holding : s.rxst = .deliver) (d : Byte) : s.rxStep d = { s with line := d :: s.line } := by
  rcases s.rxStep_cases d with ⟨_, keeps⟩ | ⟨taking, _⟩
  · exact keeps
  · exact absurd holding taking

theorem State.offerLine_of_deliver {s : State} (holding : s.rxst = .deliver) : s.offerLine = s := by
  rcases s.offerLine_cases with ⟨_, keeps⟩ | ⟨_, _, _, taking, _⟩
  · exact keeps
  · exact absurd holding taking

/-- Settles O11. -/
theorem lineIsHeldDuringDelivery : Obligations.LineIsHeldDuringDelivery := by
  refine fun s holding => ⟨fun d rest ht => ?_, fun rest ht => ?_, fun d i e offers => ?_, fun i e pair => ?_⟩
  · exact (step_cons ht).trans (congrArg _ (State.offerLine_of_deliver holding))
  · exact (step_cons ht).trans (congrArg _ (State.offerLine_of_deliver holding))
  · rw [exec_of_mem_offers offers, State.rxStep_of_deliver holding]
  · rw [exec_of_mem_symbolPairs pair]
    exact congrArg _ (State.rxStep_of_deliver (s := { s with line := e :: s.line, turns := .rxHeld :: s.turns }) holding 0xDB)

/-! The fetch of a step (R12). -/

/-- LINE_RX's oldest byte is offered as its row. -/
theorem State.offerLine_of_row {s : State} {d : Byte} {q : List Byte} {i : Instr} (oldest : s.line = d :: q)
    (row : Spec.row s d = some i) : Host.Outcome.next s.offerLine = exec i { s with line := q } := by
  rw [exec_of_row row, State.offerLine, oldest]

theorem step_pseudo {s : State} {p : Pseudo} {rest : List Turn} (ht : s.turns = .pseudo p :: rest) :
    step s = exec (decodePseudo p) { s with turns := rest } := by
  rw [step, State.fetch, ht]

/-- Settles O9: a turn that needs no byte is decoded as it stands; a turn of LINE_RX offers the row of its oldest byte. -/
theorem stepRunsDecodedOperation : Obligations.StepRunsDecodedOperation := by
  refine fun s rest => ⟨fun w i ht hi => ?_, fun k i ht hi => ?_, fun k v i ht hi => ?_, fun a i ht hi => ?_, fun a v i ht hi => ?_,
    fun ht => step_cons ht, fun ht => step_cons ht, fun p i ht hi => ?_, fun d i ht empty row => ?_, fun d e l i ht oldest row => ?_,
    fun d l i ht oldest row => ?_, fun ht empty => ?_, step_nil⟩
  · obtain rfl := Except.ok.inj hi
    exact (step_cons ht).trans (exec_decodeCommand w _).symm
  · obtain rfl := Except.ok.inj hi
    exact (step_cons ht).trans (exec_decodeRegRead k _).symm
  · obtain rfl := Except.ok.inj hi
    exact (step_cons ht).trans (exec_decodeRegWrite k v _).symm
  · obtain rfl := Except.ok.inj hi
    exact step_cons ht
  · obtain rfl := Except.ok.inj hi
    exact step_cons ht
  · obtain rfl := Except.ok.inj hi
    exact step_pseudo ht
  · have oldest : s.line ++ [d] = d :: s.line := by rw [empty]; rfl
    exact (step_cons ht).trans (State.offerLine_of_row (s := { s with turns := rest, line := s.line ++ [d] }) oldest row)
  · have oldest : s.line ++ [d] = e :: (l ++ [d]) := by rw [oldest]; rfl
    exact (step_cons ht).trans (State.offerLine_of_row (s := { s with turns := rest, line := s.line ++ [d] }) oldest row)
  · exact (step_cons ht).trans (State.offerLine_of_row (s := { s with turns := rest }) oldest row)
  · have keeps : State.offerLine { s with turns := rest } = { s with turns := rest } := by rw [State.offerLine, empty]
    exact (step_cons ht).trans (congrArg _ keeps)

/-- LINE_RX's next turn offers the oldest byte, in DELIVER too, where it goes back to the head. -/
theorem step_rxHeld_eq_rxStep {s : State} {d : Byte} {q : List Byte} {rest : List Turn} (ht : s.turns = .rxHeld :: rest)
    (oldest : s.line = d :: q) : step s = .next (State.rxStep { s with turns := rest, line := q } d) := by
  rw [step_cons ht, State.runTurn, State.offerLine, oldest]

/-! Table words (R70, R71, R82). -/

/-- R71: the two-byte words that are one symbol. -/
theorem mem_symbolPairs_of_decode {c d : Byte} {i : Instr} (h : decode (.wireSymbol [c, d]) = .ok i) :
    c = 0xDB ∧ (i, d) ∈ Spec.symbolPairs := by
  by_cases isEnd : c = wireEND
  · subst isEnd; cases h
  by_cases isEsc : c = wireESC
  · subst isEsc
    by_cases escEnd : d = wireESC_END
    · subst escEnd; cases h; exact ⟨rfl, by decide⟩
    by_cases escEsc : d = wireESC_ESC
    · subst escEsc; cases h; exact ⟨rfl, by decide⟩
    · have other : (wireESC == wireEND) = false := by decide
      simp [decode, decodeSymbol, escEnd, escEsc, other] at h
  · simp [decode, decodeSymbol_lit isEnd isEsc] at h

/-- R70: a reserved byte is offered as it is. -/
theorem exec_of_decodeWireByte {d : Byte} {i : Instr} (h : decodeWireByte d = .ok i) (s : State) : exec i s = .next (s.rxStep d) := by
  unfold decodeWireByte at h
  split at h
  · rename_i same; cases h; rw [eq_of_beq same]; rfl
  split at h
  · rename_i same; cases h; rw [eq_of_beq same]; rfl
  split at h
  · rename_i same; cases h; rw [eq_of_beq same]; rfl
  split at h
  · rename_i same; cases h; rw [eq_of_beq same]; rfl
  · cases h

theorem placed16_runs {s : State} {w : Nat} {i : Instr} (h : decodeTableWord 16 w = some i) : step (s.withFetchWord 16 w) = exec i s := by
  have decoded : decode (.wireSymbol [BitVec.ofNat 8 (w / 256), BitVec.ofNat 8 w]) = .ok i := by
    cases e : decode (.wireSymbol [BitVec.ofNat 8 (w / 256), BitVec.ofNat 8 w]) with
    | ok j => simp only [decodeTableWord, e] at h; rw [Option.some.inj h]
    | error => simp [decodeTableWord, e] at h
  obtain ⟨first, pair⟩ := mem_symbolPairs_of_decode decoded
  have placed : s.withFetchWord 16 w = { s with turns := .rxHeld :: .rxHeld :: s.turns, line := 0xDB :: BitVec.ofNat 8 w :: s.line } := by
    simp only [State.withFetchWord, State.placeTableWord, h, first]
  rw [placed, exec_of_mem_symbolPairs pair, step_rxHeld_eq_rxStep rfl rfl]

theorem placed8_runs {s : State} {w : Nat} {i : Instr} (h : decodeTableWord 8 w = some i) : step (s.withFetchWord 8 w) = exec i s := by
  simp only [decodeTableWord] at h
  cases e : decodeWireByte (BitVec.ofNat 8 w) with
  | ok j =>
    simp only [e] at h
    obtain rfl := Option.some.inj h
    have placed : s.withFetchWord 8 w = { s with turns := .rxHeld :: s.turns, line := BitVec.ofNat 8 w :: s.line } := by
      simp only [State.withFetchWord, State.placeTableWord, e]
    rw [placed, exec_of_decodeWireByte e, step_rxHeld_eq_rxStep rfl rfl]
  | error =>
    simp only [e] at h
    by_cases cmd : (BitVec.ofNat 8 w == 3) = true
    · rw [if_pos cmd] at h
      obtain rfl := Option.some.inj h
      have placed : s.withFetchWord 8 w = { s with turns := .regWrite 3 0 :: s.turns } := by
        simp only [State.withFetchWord, State.placeTableWord, e, if_pos cmd]
      rw [placed, step_cons rfl, exec_decodeRegWrite]
      rfl
    · rw [if_neg cmd] at h
      obtain rfl := Option.some.inj h
      have placed : s.withFetchWord 8 w = { s with turns := .regRead (BitVec.ofNat 8 w) :: s.turns } := by
        simp only [State.withFetchWord, State.placeTableWord, e, if_neg cmd]
      rw [placed, step_cons rfl, exec_decodeRegRead]
      rfl

/-- Settles O10: a command word, a register number and a reserved byte are one turn; of a symbol's two, the first offers its ESC. -/
theorem placedTableWordRunsFirst : Obligations.PlacedTableWordRunsFirst := by
  intro s nbits w i h
  by_cases is32 : nbits = 32
  · subst is32
    obtain rfl := Option.some.inj h
    have placed : s.withFetchWord 32 w = { s with turns := .command (BitVec.ofNat 32 w) :: s.turns } := rfl
    rw [placed, step_cons rfl, exec_decodeCommand]
    rfl
  by_cases is16 : nbits = 16
  · subst is16; exact placed16_runs h
  by_cases is8 : nbits = 8
  · subst is8; exact placed8_runs h
  · simp [decodeTableWord] at h

/-! XEND and XESC in a frame (R71, R112, R113). -/

/-- A symbol in a frame, whose second byte completes the escape of the data byte `d`: two steps. -/
theorem symbolPair_stores {s : State} (inFrame : s.rxst = .inFrame) {i : Instr} {d e : Byte} (pair : (i, e) ∈ Spec.symbolPairs)
    (completes : ∀ v : State, v.rxst = .escape → v.decodeByte e = { v.storeByte d with rxst := .inFrame }) :
    ∃ t u, exec i s = .next t ∧
      t = { s with rxst := .escape, events := s.events ++ [.rxIn 0xDB], line := e :: s.line, turns := .rxHeld :: s.turns } ∧
      step t = .next u ∧
      (s.rxidx.toNat < 304 → Spec.stored s u (Spec.at s.rxbuf (2 + s.rxidx.toNat)) [d] ∧
        u = { s with rxidx := s.rxidx + 1, events := s.events ++ [.rxIn 0xDB, .rxIn e], bmem := u.bmem }) ∧
      (304 ≤ s.rxidx.toNat → u = { s with events := s.events ++ [.rxIn 0xDB, .rxIn e] }) := by
  have first : State.rxStep { s with line := e :: s.line, turns := .rxHeld :: s.turns } 0xDB =
      { s with rxst := .escape, events := s.events ++ [.rxIn 0xDB], line := e :: s.line, turns := .rxHeld :: s.turns } := by
    rw [State.rxStep_of_ne_deliver _ (by simp [inFrame])]
    exact State.decodeByte_inFrame_esc _ inFrame
  let v : State := { s with rxst := .escape, events := s.events ++ [.rxIn 0xDB] ++ [.rxIn e] }
  have second : step { s with rxst := .escape, events := s.events ++ [.rxIn 0xDB], line := e :: s.line, turns := .rxHeld :: s.turns } =
      .next { v.storeByte d with rxst := .inFrame } := (step_rxHeld rfl rfl (by simp)).trans (congrArg _ (completes v rfl))
  refine ⟨_, _, (exec_of_mem_symbolPairs pair s).trans (congrArg _ first), rfl, second, ?_⟩
  have events : v.events = s.events ++ [.rxIn 0xDB, .rxIn e] := List.append_assoc ..
  rcases v.storeByte_cases d with ⟨below, stores⟩ | ⟨full, keeps⟩
  · rw [stores, span_add_eq_at, ← inFrame, ← events]
    exact ⟨fun _ => ⟨stored_of_memWrites rfl rfl, rfl⟩, fun full => absurd below (Nat.not_lt.2 full)⟩
  · rw [keeps, ← inFrame, ← events]
    exact ⟨fun below => absurd full (Nat.not_le.2 below), fun _ => rfl⟩

/-- Settles O30: the two symbols, each with its escape's completion. -/
theorem twoByteSymbolsStoreTheirDataByte : Obligations.TwoByteSymbolsStoreTheirDataByte := by
  intro s inFrame i d e symbol
  simp only [List.mem_cons, Prod.mk.injEq, List.not_mem_nil, or_false] at symbol
  rcases symbol with ⟨rfl, rfl, rfl⟩ | ⟨rfl, rfl, rfl⟩
  · exact symbolPair_stores inFrame (by decide) State.decodeByte_escape_escEnd
  · exact symbolPair_stores inFrame (by decide) State.decodeByte_escape_escEsc

end Sys2Proof.Machine
end


section
/-! PROOFS. Runs of offered bytes: the gap between frames (rules R107, R117), and the round trip of encoder and decoder (rules R116, R132,
R159). -/

namespace Sys2Proof.Machine

/-! Runs in AWAIT_START. -/

/-- R107. -/
theorem State.decodeByte_awaitStart_other (s : State) {d : Byte} (waiting : s.rxst = .awaitStart) (notEnd : d ≠ wireEND) :
    s.decodeByte d = s := by
  simp [State.decodeByte, waiting, notEnd]

/-- A run of dropped bytes, one turn for each. -/
theorem run_gap (gap : List Byte) {s : State} {rest : List Turn} (waiting : s.rxst = .awaitStart) (empty : s.line = [])
    (noEnd : (0xC0 : Byte) ∉ gap) (ht : s.turns = gap.map .rx ++ rest) :
    Host.Core.run core gap.length s = .next { s with turns := rest, events := s.events ++ gap.map .rxIn } := by
  induction gap generalizing s with
  | nil =>
    rw [List.map_nil, List.append_nil, ← show s.turns = rest from ht]
    exact run_zero s
  | cons d gap ih =>
    obtain ⟨notEnd, noEnd⟩ := not_or.1 (mt List.mem_cons.2 noEnd)
    have dropped : step s = .next (Spec.took { s with turns := gap.map .rx ++ rest } d) :=
      (step_rx ht empty (by simp [waiting])).trans (congrArg _ (State.decodeByte_awaitStart_other _ waiting (Ne.symm notEnd)))
    refine (run_succ gap.length dropped).trans ((ih (s := Spec.took { s with turns := gap.map .rx ++ rest } d) waiting empty noEnd rfl).trans ?_)
    rw [List.map_cons, List.append_cons]
    rfl

/-- Settles O33. -/
theorem awaitStartDropsUntilEnd : Obligations.AwaitStartDropsUntilEnd := by
  refine ⟨fun s d waiting notEnd => ?_, fun s gap rest waiting empty noEnd ht => run_gap gap waiting empty noEnd ht⟩
  have row : exec (.rxOtherAwaitStart d) s = .next (s.rxStep d) := rfl
  rw [row, s.rxStep_of_ne_deliver (by simp [waiting]), State.decodeByte_awaitStart_other (Spec.took s d) waiting notEnd]

/-! STORE of a byte list (R103). -/

/-- The state after STORE of each byte of a list. -/
def State.storeAll (s : State) : List Byte → State
  | [] => s
  | d :: ds => (s.storeByte d).storeAll ds

/-- STORE looks at neither RXST, the history nor the turns to come. -/
theorem State.storeByte_congr (s : State) (v : Byte) (st : RxState) (es : List Event) (ts : List Turn) :
    State.storeByte { s with rxst := st, events := es, turns := ts } v =
      { s.storeByte v with rxst := st, events := es, turns := ts } := by
  rcases s.storeByte_cases v with ⟨below, e⟩ | ⟨full, e⟩ <;> rw [e]
  · exact if_pos below
  · exact if_neg (Nat.not_lt.2 full)

theorem State.storeByte_rxst (s : State) (v : Byte) : (s.storeByte v).rxst = s.rxst := by rw [s.storeByte_frame]

theorem State.storeAll_frame (src : List Byte) (s : State) :
    ∃ idx bmem, s.storeAll src = { s with rxidx := idx, bmem := bmem } := by
  induction src generalizing s with
  | nil => exact ⟨_, _, rfl⟩
  | cons d ds ih =>
    obtain ⟨idx, bmem, e⟩ := ih (s.storeByte d)
    exact ⟨idx, bmem, by rw [State.storeAll, e, s.storeByte_frame]⟩

theorem State.storeAll_rxidx (src : List Byte) {s : State} (bounded : s.rxidx.toNat ≤ 304) :
    (s.storeAll src).rxidx.toNat = min (s.rxidx.toNat + src.length) 304 := by
  induction src generalizing s with
  | nil => exact (Nat.min_eq_left bounded).symm
  | cons d ds ih =>
    rw [State.storeAll, ih (State.storeByte_rxidx_le bounded d), State.storeByte_rxidx bounded, List.length_cons]
    omega

theorem State.memWrites_bmem_congr {s t : State} (same : t.bmem = s.bmem) (a : Nat) (vs : List Byte) :
    (t.memWrites a vs).bmem = (s.memWrites a vs).bmem := by
  induction vs generalizing s t a with
  | nil => exact same
  | cons v vs ih => exact ih (by rw [State.memWrite_bmem, State.memWrite_bmem, same]) (a + 1)

/-- STORE of a list writes it from RXIDX on, and stops at RX_CAP. -/
theorem State.storeAll_bmem (src : List Byte) {s : State} (bounded : s.rxidx.toNat ≤ 304) : (s.storeAll src).bmem =
    (s.memWrites (Spec.at s.rxbuf (2 + s.rxidx.toNat)) (src.take (304 - s.rxidx.toNat))).bmem := by
  induction src generalizing s with
  | nil => rw [List.take_nil]; rfl
  | cons d ds ih =>
    have sameBuffer : (s.storeByte d).rxbuf = s.rxbuf := by rw [s.storeByte_frame]
    rw [State.storeAll, ih (State.storeByte_rxidx_le bounded d), State.storeByte_rxidx bounded, sameBuffer]
    rcases s.storeByte_cases d with ⟨below, e⟩ | ⟨full, e⟩
    · have room : 304 - s.rxidx.toNat = 304 - (s.rxidx.toNat + 1) + 1 := by omega
      rw [Nat.min_eq_left below, room, List.take_succ_cons, State.memWrites]
      refine State.memWrites_bmem_congr ?_ _ _
      rw [e, span_add_eq_at]
    · have noRoom : 304 - s.rxidx.toNat = 0 := by omega
      have noRoom' : 304 - min (s.rxidx.toNat + 1) 304 = 0 := by omega
      rw [noRoom, noRoom', e]; rfl

/-! The decoder on encoded bytes (R110 to R113, R116). -/

/-- The decoder stores a data byte from its escape: one step, or two through ESCAPE. -/
theorem run_esc {s : State} {d : Byte} {rest : List Turn} (inFrame : s.rxst = .inFrame) (empty : s.line = [])
    (ht : s.turns = (Spec.esc d).map .rx ++ rest) : Host.Core.run core (Spec.esc d).length s =
      .next { s.storeByte d with turns := rest, events := s.events ++ (Spec.esc d).map .rxIn } := by
  have twoBytes {e : Byte} (hd : Spec.esc d = [0xDB, e])
      (completes : ∀ v : State, v.rxst = .escape → v.decodeByte e = { v.storeByte d with rxst := .inFrame }) :
      Host.Core.run core (Spec.esc d).length s =
        .next { s.storeByte d with turns := rest, events := s.events ++ (Spec.esc d).map .rxIn } := by
    rw [hd] at ht ⊢
    have first : step s = .next { s with rxst := .escape, events := s.events ++ [.rxIn 0xDB], turns := .rx e :: rest } :=
      (step_rx ht empty (by simp [inFrame])).trans (congrArg _ (State.decodeByte_inFrame_esc _ inFrame))
    have second := (step_rx (s := { s with rxst := .escape, events := s.events ++ [.rxIn 0xDB], turns := .rx e :: rest }) rfl empty
      (by simp)).trans (congrArg _ (completes _ rfl))
    refine (run_succ 1 first).trans ((run_one second).trans (congrArg _ ?_))
    have stored := s.storeByte_congr d .escape (s.events ++ [.rxIn 0xDB] ++ [.rxIn e]) rest
    rw [List.append_assoc] at stored
    rw [State.emit, List.append_assoc]
    exact (congrArg (fun v : State => { v with rxst := .inFrame }) stored).trans (by rw [← inFrame, ← s.storeByte_rxst d])
  rcases esc_cases d with ⟨rfl, hd⟩ | ⟨rfl, hd⟩ | ⟨notEnd, notEsc, hd⟩
  · exact twoBytes hd State.decodeByte_escape_escEnd
  · exact twoBytes hd State.decodeByte_escape_escEsc
  · rw [hd] at ht ⊢
    have stores := (step_rx ht empty (by simp [inFrame])).trans (congrArg _ (State.decodeByte_inFrame_data _ inFrame notEnd notEsc))
    refine (run_one stores).trans (congrArg _ ?_)
    have stored := s.storeByte_congr d s.rxst (s.events ++ [.rxIn d]) rest
    exact stored.trans (by rw [← s.storeByte_rxst d]; rfl)

theorem State.storeAll_congr (src : List Byte) (s : State) (st : RxState) (es : List Event) (ts : List Turn) :
    State.storeAll { s with rxst := st, events := es, turns := ts } src =
      { s.storeAll src with rxst := st, events := es, turns := ts } := by
  induction src generalizing s with
  | nil => rfl
  | cons d ds ih => rw [State.storeAll, s.storeByte_congr, ih, State.storeAll]

/-- The decoder stores what the encoder escaped. -/
theorem run_escaped (src : List Byte) {s : State} {rest : List Turn} (inFrame : s.rxst = .inFrame) (empty : s.line = [])
    (ht : s.turns = (src.flatMap Spec.esc).map .rx ++ rest) : Host.Core.run core (src.flatMap Spec.esc).length s =
      .next { s.storeAll src with turns := rest, events := s.events ++ (src.flatMap Spec.esc).map .rxIn } := by
  induction src generalizing s with
  | nil =>
    have ht : s.turns = rest := ht
    rw [← ht]
    simp [State.storeAll, run_zero]
  | cons d ds ih =>
    rw [List.flatMap_cons, List.map_append, List.append_assoc] at ht
    rw [List.flatMap_cons, List.length_append, List.map_append, ← List.append_assoc, State.storeAll]
    have line : (s.storeByte d).line = [] := by rw [s.storeByte_frame, empty]
    have head := run_add (ds.flatMap Spec.esc).length (run_esc inFrame empty ht)
    have tail := ih (s := { s.storeByte d with turns := (ds.flatMap Spec.esc).map .rx ++ rest
                                               events := s.events ++ (Spec.esc d).map .rxIn })
      ((s.storeByte_rxst d).trans inFrame) line rfl
    have kept : ((s.storeByte d).storeAll ds).rxst = (s.storeByte d).rxst := by
      obtain ⟨_, _, e⟩ := State.storeAll_frame ds (s.storeByte d)
      rw [e]
    rw [head, tail, State.storeAll_congr ds (s.storeByte d) (s.storeByte d).rxst, ← kept]

/-- R106, R109: the opening END, in AWAIT_START or in a frame with nothing stored. -/
theorem step_open {s : State} {rest : List Turn} (ready : s.rxst = .awaitStart ∨ s.rxst = .inFrame ∧ s.rxidx = 0) (empty : s.line = [])
    (ht : s.turns = .rx 0xC0 :: rest) : step s =
      .next { s with rxst := .inFrame, rxidx := 0, events := s.events ++ [.rxIn 0xC0], turns := rest } := by
  rcases ready with waiting | ⟨inFrame, zero⟩
  · exact (step_rx ht empty (by simp [waiting])).trans (congrArg _ (State.decodeByte_awaitStart_end _ waiting))
  · refine (step_rx ht empty (by simp [inFrame])).trans (congrArg _ ?_)
    refine (State.decodeByte_inFrame_end_empty (Spec.took { s with turns := rest } 0xC0) inFrame zero).trans ?_
    rw [← inFrame, ← zero]; rfl

/-- The state after the opening END and the escaped bytes of a list: the list is stored from the head of the span on. -/
theorem run_frame (src : List Byte) {s : State} {rest : List Turn} (ready : s.rxst = .awaitStart ∨ s.rxst = .inFrame ∧ s.rxidx = 0)
    (empty : s.line = []) (ht : s.turns = ([0xC0] ++ src.flatMap Spec.esc).map .rx ++ rest) :
    ∃ u, Host.Core.run core (1 + (src.flatMap Spec.esc).length) s = .next u ∧
      u = { s with rxst := .inFrame, rxidx := u.rxidx, bmem := u.bmem, turns := rest,
                   events := s.events ++ ([0xC0] ++ src.flatMap Spec.esc).map .rxIn } ∧
      u.rxidx.toNat = min src.length 304 ∧ Spec.stored s u (Spec.at s.rxbuf 2) (src.take 304) := by
  have opens := run_one (step_open (rest := (src.flatMap Spec.esc).map .rx ++ rest) ready empty (by rw [ht]; rfl))
  let v : State := { s with rxst := .inFrame, rxidx := 0, events := s.events ++ [.rxIn 0xC0]
                            turns := (src.flatMap Spec.esc).map .rx ++ rest }
  have stores := (run_add (src.flatMap Spec.esc).length opens).trans (run_escaped (s := v) src rfl empty rfl)
  refine ⟨_, stores, ?_, ?_, ?_⟩
  · obtain ⟨_, _, e⟩ := State.storeAll_frame src v
    rw [e, List.map_append, ← List.append_assoc]; rfl
  · rw [← Nat.zero_add src.length]
    exact State.storeAll_rxidx src (s := v) (Nat.zero_le _)
  · have written := State.storeAll_bmem src (s := v) (Nat.zero_le _)
    have draws : (v.storeAll src).bmemEpoch = v.bmemEpoch := by
      obtain ⟨_, _, e⟩ := State.storeAll_frame src v
      rw [e]
    exact stored_of_memWrites (s := v) written draws

theorem onWire_append (src : List Byte) (rest : List Turn) :
    (Spec.onWire src).map Turn.rx ++ rest = ([0xC0] ++ src.flatMap Spec.esc).map .rx ++ .rx 0xC0 :: rest := by
  simp [Spec.onWire]

/-- R108: the closing END. -/
theorem step_close {u : State} {rest : List Turn} (inFrame : u.rxst = .inFrame) (empty : u.line = []) (nonempty : u.rxidx.toNat ≠ 0)
    (ht : u.turns = .rx 0xC0 :: rest) :
    step u = .next ((Spec.took { u with turns := rest } 0xC0).frameComplete u.rxidx.toNat) := by
  have stored : u.rxidx ≠ 0 := fun zero => nonempty (by rw [zero]; rfl)
  exact (step_rx ht empty (by simp [inFrame])).trans
    (congrArg _ (State.decodeByte_inFrame_end_stored (Spec.took { u with turns := rest } 0xC0) inFrame stored))

/-- Settles O41: with nothing between its END bytes the frame stays open; else the closing END completes the frame of the stored list. -/
theorem decoderUndoesEncoder : Obligations.DecoderUndoesEncoder := by
  intro s src rest ready empty ht
  refine ⟨fun nothing => ?_, fun something => ?_⟩
  · subst nothing
    have first := step_open ready empty ht
    have second := step_open (s := { s with rxst := .inFrame, rxidx := 0, events := s.events ++ [.rxIn 0xC0], turns := .rx 0xC0 :: rest })
      (.inr ⟨rfl, rfl⟩) empty rfl
    rw [List.append_assoc] at second
    exact (run_succ 1 first).trans (run_one second)
  · rw [onWire_append] at ht
    obtain ⟨u, runs, frame, idx, stored⟩ := run_frame src ready empty ht
    have length : (Spec.onWire src).length - 1 = 1 + (src.flatMap Spec.esc).length := by rw [length_onWire]; omega
    have nonempty : src.length ≠ 0 := mt List.length_eq_zero_iff.1 something
    refine ⟨u, length ▸ runs, frame, idx, stored, ?_⟩
    rw [← idx]
    exact step_close (by rw [frame]) (by rw [frame]; exact empty) (by omega) (by rw [frame])

/-! The round trip of a message. -/

/-- What is stored is what is read back. -/
theorem bytesFrom_of_stored {s t : State} {a : Nat} {data : List Byte} (stored : Spec.stored s t a data) :
    Spec.bytesFrom t a data.length = data := by
  refine List.ext_getElem (by simp [Spec.bytesFrom]) fun k _ inside => ?_
  simpa [Spec.bytesFrom] using stored.1 k inside

/-- Bytes stored in front of stored bytes. -/
theorem stored_append {s u t : State} {a : Nat} {front data : List Byte} (first : Spec.stored s u (a + front.length) data)
    (second : Spec.stored u t a front) : Spec.stored s t a (front ++ data) := by
  refine ⟨fun k inside => ?_, fun x outside => ?_⟩
  · rw [List.length_append] at inside
    by_cases inFront : k < front.length
    · rw [second.1 k inFront, List.getElem_append_left inFront]
    · have at_k := first.1 (k - front.length) (by omega)
      rw [Nat.add_assoc, Nat.add_sub_cancel' (by omega)] at at_k
      rw [second.2 (a + k) (by omega), at_k, List.getElem_append_right (by omega)]
  · rw [List.length_append] at outside
    rw [second.2 x (by omega), first.2 x (by omega)]

/-- R116, R132, R159: an END after a stored message and its FCS delivers it. -/
theorem frameComplete_delivers {w : State} {msg : List Byte} {len : Nat} (length : msg.length = len + 2)
    (stored : Spec.bytesFrom w (Spec.at w.rxbuf 2) (len + 4) = msg ++ Spec.fcsBytes msg) :
    (w.frameComplete (len + 4)) = { w with rxidx := 0, rxst := .deliver, events := w.events ++ [.msgReady w.rxbuf len]
                                           bmem := (w.frameComplete (len + 4)).bmem } ∧
      Spec.stored w (w.frameComplete (len + 4)) (Spec.at w.rxbuf 0) [BitVec.ofNat 8 len, BitVec.ofNat 8 (len / 256)] := by
  have good : crcCheck (w.memBytes (span w.rxbuf) (len + 4)) (len + 4) crcInit = true := by
    rw [State.memBytes_span, stored]
    have residue := (crcResidue msg).2
    rwa [length] at residue
  rcases w.frameComplete_cases (len + 4) with ⟨short, _⟩ | ⟨_, _, delivers⟩ | ⟨_, bad, _⟩
  · omega
  · rw [delivers, State.deliverMsg_eq, Nat.add_sub_cancel, le16_ofNat, base_eq_at]
    exact ⟨rfl, stored_of_memWrites (s := { w with rxidx := 0 }) rfl rfl⟩
  · rw [good] at bad; cases bad

/-- Settles O42: the frame is stored whole, its check is good, and its delivery writes LENGTH in front of it. -/
theorem framedMessageIsDelivered : Obligations.FramedMessageIsDelivered := by
  intro s sap mid payload rest ready empty short ht
  generalize hmsg : sap :: mid :: payload = msg at ht ⊢
  have length : msg.length = payload.length + 2 := by rw [← hmsg]; rfl
  have spanLength : (msg ++ Spec.fcsBytes msg).length = payload.length + 4 := by rw [List.length_append, length_fcsBytes, length]
  have ⟨u, runs, frame, idx, stored, closes⟩ := (decoderUndoesEncoder s _ rest ready empty ht).2 (by
    intro nothing; rw [nothing] at spanLength; simp at spanLength)
  rw [spanLength, Nat.min_eq_left (by omega)] at idx closes
  rw [List.take_of_length_le (by omega)] at stored
  let w : State := Spec.took { u with turns := rest } 0xC0
  have sameBuffer : w.rxbuf = s.rxbuf := by
    show u.rxbuf = _
    rw [frame]
  have readBack : Spec.bytesFrom w (Spec.at w.rxbuf 2) (payload.length + 4) = msg ++ Spec.fcsBytes msg := by
    rw [← spanLength, sameBuffer]
    exact bytesFrom_of_stored stored
  obtain ⟨delivers, lengthStored⟩ := frameComplete_delivers length readBack
  rw [sameBuffer] at delivers lengthStored
  have last : Host.Core.run core (Spec.onWire (msg ++ Spec.fcsBytes msg)).length s = .next (w.frameComplete (payload.length + 4)) := by
    have one : (Spec.onWire (msg ++ Spec.fcsBytes msg)).length = (Spec.onWire (msg ++ Spec.fcsBytes msg)).length - 1 + 1 := by
      rw [length_onWire]; omega
    rw [one]
    exact (run_add 1 runs).trans (run_one (closes.trans (exec_frameComplete _ w)))
  refine ⟨_, last, ?_, ?_⟩
  · have events : w.events = s.events ++ (Spec.onWire (msg ++ Spec.fcsBytes msg)).map .rxIn := by
      show u.events ++ [.rxIn 0xC0] = _
      rw [frame]
      simp [Spec.onWire]
    have others (es : List Event) (bmem : Memory) : ({ w with rxbuf := s.rxbuf, rxidx := 0, rxst := .deliver, events := es, bmem := bmem } : State) =
        { s with rxst := .deliver, rxidx := 0, bmem := bmem, turns := rest, events := es } := by
      show ({ u with rxbuf := s.rxbuf, rxidx := 0, rxst := .deliver, events := es, bmem := bmem, turns := rest } : State) = _
      rw [frame]
    rw [← events]
    exact delivers.trans (others _ _)
  · exact stored_append (front := [BitVec.ofNat 8 payload.length, BitVec.ofNat 8 (payload.length / 256)]) stored lengthStored

end Sys2Proof.Machine
end


section
/-! PROOFS. Transmission (rules R154, R155, R231) and the pseudo-instructions (rules R84, R85). -/

namespace Sys2Proof.Machine

/-! TXACK, case by case. -/

theorem exec_txack (s : State) : exec .txack s = .next s.txackStep := rfl
theorem exec_txackAll (s : State) : exec .txackAll s = .next s.txackRepeat := rfl

theorem State.txackStep_idle {s : State} (idle : s.txbusy = false) : s.txackStep = s := by
  rw [State.txackStep, State.txValid, idle]; rfl

theorem State.txackStep_wake {s : State} (busy : s.txbusy = true) (waking : 0 < s.txwake) :
    s.txackStep = { s with events := s.events ++ [.txOut s.params.wakeupByte], txwake := s.txwake - 1 } := by
  rcases s.txackStep_cases with ⟨idle, _⟩ | ⟨_, _, e⟩ | ⟨_, awake, _⟩ | ⟨_, awake, _⟩
  · exact absurd (idle.symm.trans busy) nofun
  · exact e
  · omega
  · omega

theorem State.txackStep_byte {s : State} (busy : s.txbusy = true) (awake : s.txwake = 0) (more : s.txpos + 1 ≠ s.txlen) :
    s.txackStep = { s with events := s.events ++ [.txOut (s.txoutByte s.txpos)], txpos := s.txpos + 1 } := by
  rcases s.txackStep_cases with ⟨idle, _⟩ | ⟨_, waking, _⟩ | ⟨_, _, _, e⟩ | ⟨_, _, last, _⟩
  · exact absurd (idle.symm.trans busy) nofun
  · omega
  · exact e
  · exact absurd last more

theorem State.txackStep_last {s : State} (busy : s.txbusy = true) (awake : s.txwake = 0) (last : s.txpos + 1 = s.txlen) :
    s.txackStep = { s with events := s.events ++ [.txOut (s.txoutByte s.txpos), .txDone s.txbuf], txpos := s.txpos + 1,
                           txbusy := false, txbuf := 0 } := by
  rcases s.txackStep_cases with ⟨idle, _⟩ | ⟨_, waking, _⟩ | ⟨_, _, more, _⟩ | ⟨_, _, _, e⟩
  · exact absurd (idle.symm.trans busy) nofun
  · omega
  · exact absurd last more
  · exact e

/-- Settles O47. -/
theorem txackEmitsOneByte : Obligations.TxackEmitsOneByte := fun _ =>
  ⟨fun busy waking => congrArg _ (State.txackStep_wake busy waking), fun busy awake more => congrArg _ (State.txackStep_byte busy awake more),
    fun busy awake last => congrArg _ (State.txackStep_last busy awake last), fun idle => congrArg _ (State.txackStep_idle idle)⟩

theorem State.txackRepeat_busy {s : State} (busy : s.txbusy = true) : s.txackRepeat =
    if s.txackStep.txbusy then s.txackStep.queueTurns [.pseudo .txackAll] else s.txackStep := by
  rw [State.txackRepeat, State.txValid, busy]; rfl

/-- Settles O52. -/
theorem txackAllRepeatsTxack : Obligations.TxackAllRepeatsTxack := by
  refine fun s => ⟨fun idle => ?_, fun busy => ⟨_, exec_txack s, ?_⟩⟩
  · rw [exec_txackAll, State.txackRepeat, State.txValid, idle]; rfl
  · rw [exec_txackAll, State.txackRepeat_busy busy]; rfl

/-! A whole SEND. -/

/-- The turns of `n` acceptances, by TXACK each or by one TXACK*. -/
def ackTurns (all : Bool) : Nat → List Turn → List Turn
  | 0, rest => rest
  | n + 1, rest => if all then .pseudo .txackAll :: rest else .txAccept :: ackTurns all n rest

theorem ackTurns_false (n : Nat) (rest : List Turn) : ackTurns false n rest = List.replicate n .txAccept ++ rest := by
  induction n with
  | zero => rfl
  | succ n ih => rw [List.replicate_succ, List.cons_append, ← ih]; rfl

/-- The acceptances a SEND in progress still takes (R231). -/
def State.acksLeft (s : State) : Nat := s.txwake + (s.txlen - s.txpos)

/-- The state after the rest of a SEND. -/
def State.sendDone (s : State) (rest : List Turn) : State :=
  { s with txbusy := false, txbuf := 0, txwake := 0, txpos := s.txlen, turns := rest,
           events := s.events ++ List.replicate s.txwake (.txOut s.params.wakeupByte)
             ++ (List.range (s.txlen - s.txpos)).map (fun i => .txOut (s.txoutByte (s.txpos + i))) ++ [.txDone s.txbuf] }

theorem State.sendDone_wake {s : State} (waking : 0 < s.txwake) (ts rest : List Turn) :
    State.sendDone { s with events := s.events ++ [.txOut s.params.wakeupByte], txwake := s.txwake - 1, turns := ts } rest =
      s.sendDone rest := by
  obtain ⟨k, hk⟩ : ∃ k, s.txwake = k + 1 := ⟨s.txwake - 1, by omega⟩
  simp only [State.sendDone, hk, Nat.add_sub_cancel, List.replicate_succ, List.append_assoc, List.cons_append, List.nil_append]
  rfl

theorem State.sendDone_byte {s : State} (awake : s.txwake = 0) (more : s.txpos + 1 < s.txlen) (ts rest : List Turn) :
    State.sendDone { s with events := s.events ++ [.txOut (s.txoutByte s.txpos)], txpos := s.txpos + 1, turns := ts } rest =
      s.sendDone rest := by
  obtain ⟨k, hk⟩ : ∃ k, s.txlen - s.txpos = k + 1 := ⟨s.txlen - s.txpos - 1, by omega⟩
  have hk' : s.txlen - (s.txpos + 1) = k := by omega
  have shift : (fun i => Event.txOut (s.txoutByte (s.txpos + i))) ∘ Nat.succ = fun i => .txOut (s.txoutByte (s.txpos + 1 + i)) := by
    funext i
    rw [Function.comp_apply, Nat.succ_eq_add_one, Nat.add_assoc, Nat.add_comm 1]
  simp only [State.sendDone, awake, hk, hk', List.range_succ_eq_map, List.map_cons, List.map_map, shift, List.replicate_zero,
    List.append_assoc, List.cons_append, List.nil_append]
  rfl

theorem State.sendDone_last {s : State} (awake : s.txwake = 0) (last : s.txpos + 1 = s.txlen) (rest : List Turn) :
    { s with events := s.events ++ [.txOut (s.txoutByte s.txpos), .txDone s.txbuf], txpos := s.txpos + 1, txbusy := false
             txbuf := 0, turns := rest } = s.sendDone rest := by
  have one : s.txlen - s.txpos = 1 := by omega
  simp [State.sendDone, awake, one, last]

/-- One acceptance of a SEND in progress: the last completes it, and each other leaves a SEND in progress with one acceptance less and the
same end. -/
theorem State.txackStep_of_busy {s : State} (busy : s.txbusy = true) (pos : s.txpos < s.txlen) (ts rest : List Turn) :
    (s.acksLeft = 1 ∧ s.txackStep.txbusy = false ∧ { s.txackStep with turns := rest } = s.sendDone rest) ∨
      (s.txackStep.txbusy = true ∧ s.txackStep.txpos < s.txackStep.txlen ∧ s.acksLeft = s.txackStep.acksLeft + 1 ∧
        State.sendDone { s.txackStep with turns := ts } rest = s.sendDone rest) := by
  by_cases waking : 0 < s.txwake
  · rw [State.txackStep_wake busy waking]
    exact .inr ⟨busy, pos, by simp only [State.acksLeft]; omega, State.sendDone_wake waking ts rest⟩
  have awake : s.txwake = 0 := by omega
  by_cases last : s.txpos + 1 = s.txlen
  · rw [State.txackStep_last busy awake last]
    exact .inl ⟨by simp only [State.acksLeft]; omega, rfl, State.sendDone_last awake last rest⟩
  · rw [State.txackStep_byte busy awake last]
    have more : s.txpos + 1 < s.txlen := by omega
    exact .inr ⟨busy, more, by simp only [State.acksLeft]; omega, State.sendDone_byte awake more ts rest⟩

/-- A turn of a SEND in progress: TXACK, or TXACK* with the next TXACK* queued while the SEND is in progress. -/
theorem step_ack {s : State} {all : Bool} {n : Nat} {rest : List Turn} (busy : s.txbusy = true)
    (more : s.txackStep.txbusy = decide (n ≠ 0)) (ht : s.turns = ackTurns all (n + 1) rest) :
    step s = .next { s.txackStep with turns := ackTurns all n rest } := by
  have later (ts : List Turn) : State.txackStep { s with turns := ts } = { s.txackStep with turns := ts } := by
    rcases s.txackStep_cases with ⟨idle, _⟩ | ⟨_, waking, e⟩ | ⟨_, awake, more, e⟩ | ⟨_, awake, last, e⟩
    · exact absurd (idle.symm.trans busy) nofun
    · rw [e]; exact State.txackStep_wake busy waking
    · rw [e]; exact State.txackStep_byte busy awake more
    · rw [e]; exact State.txackStep_last busy awake last
  cases all with
  | false => exact (step_cons ht).trans (congrArg _ (later _))
  | true =>
    have repeats : State.txackRepeat { s with turns := rest } = { s.txackStep with turns := ackTurns true n rest } := by
      rw [State.txackRepeat_busy (s := { s with turns := rest }) busy, later]
      show (if s.txackStep.txbusy = true then _ else _) = _
      rw [more]
      cases n <;> rfl
    exact (step_cons ht).trans (congrArg _ repeats)

/-- The rest of a SEND, step by step. -/
theorem run_acks (n : Nat) {s : State} {all : Bool} {rest : List Turn} (busy : s.txbusy = true) (pos : s.txpos < s.txlen)
    (left : s.acksLeft = n) (ht : s.turns = ackTurns all n rest) : Host.Core.run core n s = .next (s.sendDone rest) ∧
      ∀ j, j < n → ∃ v, Host.Core.run core j s = .next v ∧ v.txbusy = true := by
  induction n generalizing s with
  | zero => simp only [State.acksLeft] at left; omega
  | succ n ih =>
    have outcome := State.txackStep_of_busy busy pos (ackTurns all n rest) rest
    have more : s.txackStep.txbusy = decide (n ≠ 0) := by
      rcases outcome with ⟨one, idle, _⟩ | ⟨busy', pos', counted, _⟩
      · rw [idle, show n = 0 by omega]; rfl
      · have : s.txackStep.acksLeft ≠ 0 := by simp only [State.acksLeft]; omega
        rw [busy', decide_eq_true (show n ≠ 0 by omega)]
    have first := step_ack busy more ht
    rcases outcome with ⟨one, _, done⟩ | ⟨busy', pos', counted, done⟩
    · obtain rfl : n = 0 := by omega
      refine ⟨(run_one first).trans (congrArg _ done), fun j below => ⟨s, ?_, busy⟩⟩
      rw [show j = 0 by omega, run_zero]
    · obtain ⟨runs, busyBefore⟩ := ih (s := { s.txackStep with turns := ackTurns all n rest }) busy' pos'
        (show s.txackStep.acksLeft = n by omega) rfl
      refine ⟨(run_succ n first).trans (runs.trans (congrArg _ done)), fun j below => ?_⟩
      cases j with
      | zero => exact ⟨s, run_zero s, busy⟩
      | succ j => rw [run_succ j first]; exact busyBefore j (by omega)

/-- Settles O48: TXACK turns and TXACK* are the two forms of the same acceptances. -/
theorem sendEmitsExactlyItsBytes : Obligations.SendEmitsExactlyItsBytes := by
  intro s rest busy pos turns
  obtain ⟨k, hk⟩ : ∃ k, s.acksLeft = k + 1 := ⟨s.acksLeft - 1, by simp only [State.acksLeft]; omega⟩
  have asAcks : ∃ all, s.turns = ackTurns all s.acksLeft rest := by
    rcases turns with each | repeated
    · exact ⟨false, each.trans (ackTurns_false _ _).symm⟩
    · exact ⟨true, by rw [repeated, hk]; rfl⟩
  obtain ⟨all, ht⟩ := asAcks
  exact run_acks s.acksLeft busy pos rfl ht

/-! ST sequences (R84). -/

theorem exec_setlen (b : Byte) (n : U16) (s : State) : exec (.setlen b n) s = .next (s.storeSequence (base b) (le16 n)) := rfl
theorem exec_fill (b : Byte) (off : Nat) (data : List Byte) (s : State) :
    exec (.fill b off data) s = .next (s.storeSequence (base b + off) data) := rfl
theorem exec_msg (b sap mid : Byte) (payload : List Byte) (s : State) : exec (.msg b sap mid payload) s =
    .next (s.storeSequence (base b) (le16 (BitVec.ofNat 16 payload.length) ++ sap :: mid :: payload)) := rfl
theorem exec_rxs (data : List Byte) (s : State) : exec (.rxs data) s = .next (s.rxSequence data) := rfl

/-- The ST turns of a list, each address counted from the list's first. -/
theorem storeTurns_eq (b : Byte) (off : Nat) (data : List Byte) :
    storeTurns (Spec.at b off) data = data.zipIdx.map (fun x => .memWrite (Spec.at b (off + x.2)) x.1) := by
  suffices shifted : ∀ k, storeTurns (Spec.at b (off + k)) data =
      (data.zipIdx k).map (fun x => .memWrite (Spec.at b (off + x.2)) x.1) from shifted 0
  induction data with
  | nil => exact fun _ => rfl
  | cons d ds ih => exact fun k => congrArg _ (ih (k + 1))

/-- A sequence of ST takes its first and queues the others. -/
theorem storeSequence_cons (s : State) (b : Byte) (off : Nat) (d : Byte) (ds : List Byte) :
    .next (s.storeSequence (Spec.at b off) (d :: ds)) = exec (.st (Spec.at b off) d)
      { s with turns := ds.zipIdx.map (fun x => .memWrite (Spec.at b (off + 1 + x.2)) x.1) ++ s.turns } := by
  rw [← storeTurns_eq]; rfl

/-- Settles O49: each pseudo-instruction is its first step with the others queued. -/
theorem pauseAndStoresExpand : Obligations.PauseAndStoresExpand := by
  refine fun s => ⟨⟨_, rfl, rfl⟩, fun b n => ⟨_, exec_setlen b n s, ?_⟩, fun b off => rfl,
    fun b off d data => ⟨_, exec_fill b off (d :: data) s, ?_⟩, fun b sap mid payload => ⟨_, exec_msg b sap mid payload s, ?_⟩⟩
  · rw [base_eq_at, le16, storeSequence_cons]; rfl
  · rw [base_add_eq_at, storeSequence_cons]
  · rw [base_eq_at, le16_ofNat, ← storeTurns_eq b 4 payload]; rfl

/-! MSG on a buffer of the CLIENT (R84, R223). -/

theorem State.clientStore_of_client {s : State} {a : Nat} (inside : a < s.params.nbuf * 306) (owned : s.owner (a / 306) = .client)
    (v : Byte) : s.clientStore a v = s.memWrite a v := by
  rcases s.clientStore_cases a v with ⟨outside, _⟩ | ⟨_, _, e⟩ | ⟨_, other, _⟩
  · omega
  · exact e
  · exact absurd owned other

/-- The bytes of a buffer of the CLIENT. -/
theorem run_storeTurns (data : List Byte) {s : State} {b : Byte} {off : Nat} {rest : List Turn} (inRange : b.toNat < s.params.nbuf)
    (owned : s.owner b.toNat = .client) (inside : off + data.length ≤ 306) (ht : s.turns = storeTurns (Spec.at b off) data ++ rest) :
    Host.Core.run core data.length s = .next { s with bmem := (s.memWrites (Spec.at b off) data).bmem, turns := rest } := by
  induction data generalizing s off with
  | nil => rw [← show s.turns = rest from ht]; exact run_zero s
  | cons v vs ih =>
    rw [List.length_cons] at inside
    have below : Spec.at b off < s.params.nbuf * 306 := at_add_le_bmemSize (len := 1) inRange (by omega)
    have buffer : Spec.at b off / 306 = b.toNat := by unfold Spec.at; omega
    let u : State := { s with turns := storeTurns (Spec.at b (off + 1)) vs ++ rest }
    have stores : step s = .next (u.memWrite (Spec.at b off) v) :=
      (step_cons ht).trans (congrArg _ (State.clientStore_of_client (s := u) below (buffer ▸ owned) v))
    have others := ih (s := u.memWrite (Spec.at b off) v) (off := off + 1) inRange owned (by omega) rfl
    have written : ((u.memWrite (Spec.at b off) v).memWrites (Spec.at b (off + 1)) vs).bmem = (s.memWrites (Spec.at b off) (v :: vs)).bmem :=
      State.memWrites_bmem_congr (s := s.memWrite (Spec.at b off) v) (t := u.memWrite (Spec.at b off) v) rfl _ vs
    rw [written] at others
    exact (run_succ vs.length stores).trans others

/-- A sequence of ST as a pseudo-instruction is the run of its turns. -/
theorem run_storeSequence {s : State} {p : Pseudo} {a : Nat} {v : Byte} {vs : List Byte} {rest : List Turn}
    (ht : s.turns = .pseudo p :: rest) (means : ∀ u : State, u.runTurn (.pseudo p) = u.storeSequence a (v :: vs)) (n : Nat) :
    Host.Core.run core (n + 1) s = Host.Core.run core (n + 1) { s with turns := storeTurns a (v :: vs) ++ rest } := by
  have first : step { s with turns := storeTurns a (v :: vs) ++ rest } = .next (State.storeSequence { s with turns := rest } a (v :: vs)) :=
    step_cons (s := { s with turns := storeTurns a (v :: vs) ++ rest }) rfl
  rw [run_succ n (step_cons ht), means, run_succ n first]

/-- The bytes MSG stores: LENGTH, SAP, message id and payload (R51, R84). -/
def msgBytes (sap mid : Byte) (payload : List Byte) : List Byte :=
  [BitVec.ofNat 8 payload.length, BitVec.ofNat 8 (payload.length / 256), sap, mid] ++ payload

theorem runTurn_msg (s : State) (b sap mid : Byte) (payload : List Byte) :
    s.runTurn (.pseudo (.msg b sap mid payload)) = s.storeSequence (Spec.at b 0) (msgBytes sap mid payload) := by
  rw [State.runTurn, base_eq_at, le16_ofNat]; rfl

/-- R52: LENGTH reads as a number below 2^16 where its two bytes are stored. -/
theorem lengthField_of_bytes {s : State} {b : Byte} {n : Nat} (small : n < 65536) (low : s.memByte (Spec.at b 0) = BitVec.ofNat 8 n)
    (high : s.memByte (Spec.at b 1) = BitVec.ofNat 8 (n / 256)) : Spec.lengthField s b = n := by
  rw [Spec.lengthField, low, high, BitVec.toNat_ofNat, BitVec.toNat_ofNat]
  omega

/-- Settles O50: the run of MSG's stores, all of them into a buffer of the CLIENT. -/
theorem msgWritesTheMessage : Obligations.MsgWritesTheMessage := by
  intro s b sap mid payload rest inRange owned short ht
  have steps : 4 + payload.length = (msgBytes sap mid payload).length := by rw [msgBytes, List.length_append]; rfl
  let v : State := { s with turns := storeTurns (Spec.at b 0) (msgBytes sap mid payload) ++ rest }
  have runs := run_storeTurns (s := v) (msgBytes sap mid payload) (off := 0) inRange owned (by omega) rfl
  have stored : Spec.stored v { v with bmem := (v.memWrites (Spec.at b 0) (msgBytes sap mid payload)).bmem, turns := rest }
    (Spec.at b 0) (msgBytes sap mid payload) := stored_of_memWrites rfl rfl
  rw [← steps, Nat.add_comm 4 payload.length] at runs
  rw [Nat.add_comm 4 payload.length]
  refine ⟨_, (run_storeSequence ht (fun u => runTurn_msg u b sap mid payload) _).trans runs, rfl, stored, ?_⟩
  exact lengthField_of_bytes (by omega) (stored.1 0 (Nat.succ_pos _)) (stored.1 1 (Nat.succ_lt_succ (Nat.succ_pos _)))

/-! RXS (R84, R104). -/

/-- Settles O51: the first of LINE_RX's bytes takes its row, and in DELIVER none does. -/
theorem rxsOffersItsBytesInOrder : Obligations.RxsOffersItsBytesInOrder := by
  refine ⟨fun s => rfl, fun s d ds h q joined => ⟨fun r row => ⟨_, exec_rxs _ s, ?_⟩, fun holding => ?_⟩⟩
  · exact (State.offerLine_of_row (s := { s.queueTurns (List.replicate ds.length .rxHeld) with line := s.line ++ d :: ds }) joined row).symm
  · rw [exec_rxs, ← joined]
    exact congrArg _ (State.offerLine_of_deliver
      (s := { s.queueTurns (List.replicate ds.length .rxHeld) with line := s.line ++ d :: ds }) holding)

end Sys2Proof.Machine
end
